-- ==== Sys2Proof/Word.lean ====
section
/-!
DEFINITION. The two widths of the machine (00_scope.md R6): bytes of 8 bits, addresses of 16 bits.
-/

namespace Sys2Proof

/-- A byte, and the width of A, X, Y and SP (R6). -/
abbrev Byte := BitVec 8

/-- An address, and the width of PC (R6). -/
abbrev Addr := BitVec 16

end Sys2Proof
end

