-- ==== Sys2Proof/Machine/Bits.lean ====
section
/-!
DEFINITION. Bit fields, sign extension and byte order (00_scope.md R8, R9; 20_memory.md R61).
-/

namespace Sys2Proof.Machine

/-- `hi:lo`, R8. -/
def word (hi lo : Byte) : Addr := hi ++ lo

/-- `w >> 8`, the high byte of an address. -/
def hiByte (w : Addr) : Byte := w.extractLsb' 8 8

/-- `w & $FF`, the low byte of an address. -/
def loByte (w : Addr) : Byte := w.extractLsb' 0 8

/-- `zext_16(v)`, R9. -/
def zext16 (v : Byte) : Addr := v.setWidth 16

/-- `sext_8(v) mod 65536`, R9: the displacement of a branch as it is added to PC. -/
def sext8 (v : Byte) : Addr := v.signExtend 16

/-- The byte whose bit `n` alone is 1, `1 << n`. -/
def oneBit (n : Nat) : Byte := 1#8 <<< n

end Sys2Proof.Machine
end

