-- ==== Sys2Proof/Config.lean ====
section
/-!
DEFINITION. What an implementation fixes (00_scope.md R7) and the free values of the model (60_exceptions.md R347).
-/

namespace Sys2Proof

/-- The two variants of the instruction set, R2. -/
inductive Variant
  | nmos
  | cmos
  deriving DecidableEq, Repr

/-- The configuration parameters of R7 that are not devices (those, with their ranges and contents, are `State.devices`).
The spec makes them parameters of the step relation (R41); here they are one field of the state that no step changes
(DESIGN CHOICE, log entry 1), so that every statement holds for every configuration. -/
structure Config where
  /-- `VARIANT` -/
  variant : Variant
  /-- `RESET_CYCLES`, at least 1 -/
  resetCycles : Nat
  /-- `BRK_IS_STOP` -/
  brkIsStop : Bool
  /-- the domain of `BREAKPOINTS`; a handler's answer is a draw of the host (R340) -/
  breakpoints : List Addr
  /-- `MAX_REDIRECTS` -/
  maxRedirects : Nat
  /-- `NMI_VEC` -/
  nmiVec : Addr
  /-- `RESET_VEC` -/
  resetVec : Addr
  /-- `IRQ_VEC` -/
  irqVec : Addr
  deriving DecidableEq, Repr

/-- The host's answer to its `n`-th draw: a free value (R347, "a free input of the step in which it happens"). No body:
nothing can be proved about the byte drawn. DESIGN CHOICE of form, log entry 4. -/
opaque Config.hostDraw : Nat → Byte

/-- The default parameters: the vectors of R7 (D8) and the defaults it states; for the open ones the values log entry 2
names (DESIGN CHOICE, unsafe): the CMOS variant, `RESET_CYCLES` 1, `MAX_REDIRECTS` 0. -/
def Config.default : Config where
  variant := .cmos
  resetCycles := 1
  brkIsStop := false
  breakpoints := []
  maxRedirects := 0
  nmiVec := 0xFFFA
  resetVec := 0xFFFC
  irqVec := 0xFFFE

end Sys2Proof
end

