-- ==== Sys2Proof/Syntax/Operand.lean ====
section
/-!
DEFINITION. The operand forms of the addressing modes of 30_encoding.md R91, as instructions carry them: the operand bytes as
encoded, not yet resolved. Implicit instructions carry nothing and Relative ones the displacement byte, so they need no form.
-/

namespace Sys2Proof

/-- A memory operand, R91: the modes that name one byte of memory. -/
inductive Mem
  | zeroPage (z : Byte)
  | zeroPageX (z : Byte)
  | zeroPageY (z : Byte)
  | absolute (a : Addr)
  | absoluteX (a : Addr)
  | absoluteY (a : Addr)
  | indexedIndirectX (z : Byte)
  | indirectIndexedY (z : Byte)
  deriving DecidableEq, Repr

/-- The operand of a read instruction, R96: the Immediate byte, or a memory byte. -/
inductive Src
  | immediate (v : Byte)
  | mem (m : Mem)
  deriving DecidableEq, Repr

/-- The operand of a shift or rotate, R96: the accumulator, or a memory byte. -/
inductive Rmw
  | accumulator
  | mem (m : Mem)
  deriving DecidableEq, Repr

end Sys2Proof
end

