-- ==== Sys2Proof/Syntax.lean ====
section
/-!
DEFINITION. The instructions: one constructor for each row group of spec/opcode_table.json that shares a mnemonic and a rule
(DESIGN CHOICE, log entry 19); the rows of one mnemonic that differ only in addressing mode are the forms of its operand.
-/

namespace Sys2Proof

inductive Instr
  /-- LDA, R131 -/
  | lda (src : Src)
  /-- LDX, R132 -/
  | ldx (src : Src)
  /-- LDY, R133 -/
  | ldy (src : Src)
  /-- STA, R134 -/
  | sta (dst : Mem)
  /-- STX, R135 -/
  | stx (dst : Mem)
  /-- STY, R136 -/
  | sty (dst : Mem)
  /-- STZ, R137 (CMOS) -/
  | stz (dst : Mem)
  /-- TAX, R150 -/
  | tax
  /-- TAY, R151 -/
  | tay
  /-- TXA, R152 -/
  | txa
  /-- TYA, R153 -/
  | tya
  /-- TSX, R154 -/
  | tsx
  /-- TXS, R155 -/
  | txs
  /-- PHA, R156 -/
  | pha
  /-- PHP, R157 -/
  | php
  /-- PLA, R158 -/
  | pla
  /-- PLP, R159 -/
  | plp
  /-- PHX, R160 (CMOS) -/
  | phx
  /-- PHY, R161 (CMOS) -/
  | phy
  /-- PLX, R162 (CMOS) -/
  | plx
  /-- PLY, R163 (CMOS) -/
  | ply
  /-- ADC, R170 -/
  | adc (src : Src)
  /-- SBC, R174 -/
  | sbc (src : Src)
  /-- CMP, R176 -/
  | cmp (src : Src)
  /-- CPX, R177 -/
  | cpx (src : Src)
  /-- CPY, R178 -/
  | cpy (src : Src)
  /-- INC of memory, R179 -/
  | inc (dst : Mem)
  /-- DEC of memory, R180 -/
  | dec (dst : Mem)
  /-- INX, R181 -/
  | inx
  /-- INY, R182 -/
  | iny
  /-- DEX, R183 -/
  | dex
  /-- DEY, R184 -/
  | dey
  /-- INC A, R185 (CMOS) -/
  | incA
  /-- DEC A, R186 (CMOS) -/
  | decA
  /-- AND, R200 -/
  | and (src : Src)
  /-- ORA, R201 -/
  | ora (src : Src)
  /-- EOR, R202 -/
  | eor (src : Src)
  /-- BIT in its memory modes, R203 -/
  | bit (src : Mem)
  /-- BIT #, R204 (CMOS) -/
  | bitImmediate (v : Byte)
  /-- ASL, R205 -/
  | asl (dst : Rmw)
  /-- LSR, R206 -/
  | lsr (dst : Rmw)
  /-- ROL, R207 -/
  | rol (dst : Rmw)
  /-- ROR, R208 -/
  | ror (dst : Rmw)
  /-- TSB, R209 (CMOS) -/
  | tsb (dst : Mem)
  /-- TRB, R210 (CMOS) -/
  | trb (dst : Mem)
  /-- RMB0, R211 (CMOS) -/
  | rmb0 (z : Byte)
  /-- RMB1, R211 (CMOS) -/
  | rmb1 (z : Byte)
  /-- RMB2, R211 (CMOS) -/
  | rmb2 (z : Byte)
  /-- RMB3, R211 (CMOS) -/
  | rmb3 (z : Byte)
  /-- RMB4, R211 (CMOS) -/
  | rmb4 (z : Byte)
  /-- RMB5, R211 (CMOS) -/
  | rmb5 (z : Byte)
  /-- RMB6, R211 (CMOS) -/
  | rmb6 (z : Byte)
  /-- RMB7, R211 (CMOS) -/
  | rmb7 (z : Byte)
  /-- SMB0, R212 (CMOS) -/
  | smb0 (z : Byte)
  /-- SMB1, R212 (CMOS) -/
  | smb1 (z : Byte)
  /-- SMB2, R212 (CMOS) -/
  | smb2 (z : Byte)
  /-- SMB3, R212 (CMOS) -/
  | smb3 (z : Byte)
  /-- SMB4, R212 (CMOS) -/
  | smb4 (z : Byte)
  /-- SMB5, R212 (CMOS) -/
  | smb5 (z : Byte)
  /-- SMB6, R212 (CMOS) -/
  | smb6 (z : Byte)
  /-- SMB7, R212 (CMOS) -/
  | smb7 (z : Byte)
  /-- BPL, R231 -/
  | bpl (d : Byte)
  /-- BMI, R232 -/
  | bmi (d : Byte)
  /-- BVC, R233 -/
  | bvc (d : Byte)
  /-- BVS, R234 -/
  | bvs (d : Byte)
  /-- BCC, R235 -/
  | bcc (d : Byte)
  /-- BCS, R236 -/
  | bcs (d : Byte)
  /-- BNE, R237 -/
  | bne (d : Byte)
  /-- BEQ, R238 -/
  | beq (d : Byte)
  /-- BRA, R239 (CMOS) -/
  | bra (d : Byte)
  /-- BBR0, R243 (CMOS) -/
  | bbr0 (z d : Byte)
  /-- BBR1, R243 (CMOS) -/
  | bbr1 (z d : Byte)
  /-- BBR2, R243 (CMOS) -/
  | bbr2 (z d : Byte)
  /-- BBR3, R243 (CMOS) -/
  | bbr3 (z d : Byte)
  /-- BBR4, R243 (CMOS) -/
  | bbr4 (z d : Byte)
  /-- BBR5, R243 (CMOS) -/
  | bbr5 (z d : Byte)
  /-- BBR6, R243 (CMOS) -/
  | bbr6 (z d : Byte)
  /-- BBR7, R243 (CMOS) -/
  | bbr7 (z d : Byte)
  /-- BBS0, R244 (CMOS) -/
  | bbs0 (z d : Byte)
  /-- BBS1, R244 (CMOS) -/
  | bbs1 (z d : Byte)
  /-- BBS2, R244 (CMOS) -/
  | bbs2 (z d : Byte)
  /-- BBS3, R244 (CMOS) -/
  | bbs3 (z d : Byte)
  /-- BBS4, R244 (CMOS) -/
  | bbs4 (z d : Byte)
  /-- BBS5, R244 (CMOS) -/
  | bbs5 (z d : Byte)
  /-- BBS6, R244 (CMOS) -/
  | bbs6 (z d : Byte)
  /-- BBS7, R244 (CMOS) -/
  | bbs7 (z d : Byte)
  /-- JMP absolute, R240 -/
  | jmp (target : Addr)
  /-- JMP indirect, R240 -/
  | jmpIndirect (pointer : Addr)
  /-- JSR, R241 -/
  | jsr (target : Addr)
  /-- RTS, R242 -/
  | rts
  /-- BRK, R260 -/
  | brk
  /-- RTI, R261 -/
  | rti
  /-- CLC, R262 -/
  | clc
  /-- SEC, R263 -/
  | sec
  /-- CLI, R264 -/
  | cli
  /-- SEI, R265 -/
  | sei
  /-- CLD, R266 -/
  | cld
  /-- SED, R267 -/
  | sed
  /-- CLV, R268 -/
  | clv
  /-- NOP, R269 -/
  | nop
  /-- WAI, R270 (CMOS) -/
  | wai
  /-- STP, R271 (CMOS) -/
  | stp
  /-- A JAM slot (InvalidOpcode), R275 (NMOS) -/
  | jam (opcode : Byte)
  /-- A NotImplemented slot, R276 -/
  | notImplemented (opcode : Byte)
  deriving DecidableEq, Repr

end Sys2Proof
end

