-- ==== Sys2Proof/WellFormed.lean ====
section
/-!
DEFINITION. Which terms of Instr are instructions of the hardware: the addressing modes each mnemonic has
(30_encoding.md R98, R99), the fault slots (R101 to R103), and the variant each belongs to.
-/

namespace Sys2Proof

/-- The InvalidOpcode slots of the NMOS variant, R101. -/
def jamSlots : List Byte :=
  [0x02, 0x12, 0x22, 0x32, 0x42, 0x52, 0x62, 0x72, 0x92, 0xB2, 0xD2, 0xF2]

/-- The NotImplemented slots of the NMOS table, R102. -/
def nmosNotImplemented : List Byte :=
    [0x03, 0x04, 0x07, 0x0B, 0x0C, 0x0F, 0x13, 0x14, 0x17, 0x1A, 0x1B, 0x1C, 0x1F, 0x23, 0x27, 0x2B, 0x2F, 0x33, 0x34, 0x37] ++
    [0x3A, 0x3B, 0x3C, 0x3F, 0x43, 0x44, 0x47, 0x4B, 0x4F, 0x53, 0x54, 0x57, 0x5A, 0x5B, 0x5C, 0x5F, 0x63, 0x64, 0x67, 0x6B] ++
    [0x6F, 0x73, 0x74, 0x77, 0x7A, 0x7B, 0x7C, 0x7F, 0x80, 0x82, 0x83, 0x87, 0x89, 0x8B, 0x8F, 0x93, 0x97, 0x9B, 0x9C, 0x9E] ++
    [0x9F, 0xA3, 0xA7, 0xAB, 0xAF, 0xB3, 0xB7, 0xBB, 0xBF, 0xC2, 0xC3, 0xC7, 0xCB, 0xCF, 0xD3, 0xD4, 0xD7, 0xDA, 0xDB, 0xDC] ++
    [0xDF, 0xE2, 0xE3, 0xE7, 0xEB, 0xEF, 0xF3, 0xF4, 0xF7, 0xFA, 0xFB, 0xFC, 0xFF]

/-- The NotImplemented slots of the CMOS table, R103. -/
def cmosNotImplemented : List Byte :=
    [0x02, 0x03, 0x0B, 0x12, 0x13, 0x1B, 0x22, 0x23, 0x2B, 0x32, 0x33, 0x34, 0x3B, 0x3C, 0x42, 0x43, 0x44, 0x4B, 0x52, 0x53] ++
    [0x54, 0x5B, 0x5C, 0x62, 0x63, 0x6B, 0x72, 0x73, 0x7B, 0x7C, 0x82, 0x83, 0x8B, 0x92, 0x93, 0x9B, 0xA3, 0xAB, 0xB2, 0xB3] ++
    [0xBB, 0xC2, 0xC3, 0xD2, 0xD3, 0xD4, 0xDC, 0xE2, 0xE3, 0xEB, 0xF2, 0xF3, 0xF4, 0xFB, 0xFC]

/-- The NotImplemented slots of a variant. -/
def notImplementedSlots : Variant → List Byte
  | .nmos => nmosNotImplemented
  | .cmos => cmosNotImplemented

/-- The memory modes of LDA, STA, ADC, SBC, CMP, AND, ORA, EOR (R131, R134, R170, R174, R176, R200 to R202). -/
def Mem.groupOne : Mem → Bool
  | .zeroPage _ => true
  | .zeroPageX _ => true
  | .zeroPageY _ => false
  | .absolute _ => true
  | .absoluteX _ => true
  | .absoluteY _ => true
  | .indexedIndirectX _ => true
  | .indirectIndexedY _ => true

/-- The memory modes of LDX (R132). -/
def Mem.yIndexed : Mem → Bool
  | .zeroPage _ => true
  | .zeroPageX _ => false
  | .zeroPageY _ => true
  | .absolute _ => true
  | .absoluteX _ => false
  | .absoluteY _ => true
  | .indexedIndirectX _ => false
  | .indirectIndexedY _ => false

/-- The memory modes of LDY, STZ, INC, DEC, ASL, LSR, ROL, ROR (R133, R137, R179, R180, R205 to R208). -/
def Mem.xIndexed : Mem → Bool
  | .zeroPage _ => true
  | .zeroPageX _ => true
  | .zeroPageY _ => false
  | .absolute _ => true
  | .absoluteX _ => true
  | .absoluteY _ => false
  | .indexedIndirectX _ => false
  | .indirectIndexedY _ => false

/-- The memory modes of STX (R135). -/
def Mem.storeX : Mem → Bool
  | .zeroPage _ => true
  | .zeroPageX _ => false
  | .zeroPageY _ => true
  | .absolute _ => true
  | .absoluteX _ => false
  | .absoluteY _ => false
  | .indexedIndirectX _ => false
  | .indirectIndexedY _ => false

/-- The memory modes of STY (R136). -/
def Mem.storeY : Mem → Bool
  | .zeroPage _ => true
  | .zeroPageX _ => true
  | .zeroPageY _ => false
  | .absolute _ => true
  | .absoluteX _ => false
  | .absoluteY _ => false
  | .indexedIndirectX _ => false
  | .indirectIndexedY _ => false

/-- The memory modes of CPX, CPY, BIT, TSB, TRB (R177, R178, R203, R209, R210). -/
def Mem.direct : Mem → Bool
  | .zeroPage _ => true
  | .zeroPageX _ => false
  | .zeroPageY _ => false
  | .absolute _ => true
  | .absoluteX _ => false
  | .absoluteY _ => false
  | .indexedIndirectX _ => false
  | .indirectIndexedY _ => false

/-- The check on a read instruction's operand: every one of them has the Immediate mode. -/
def Src.allows (modes : Mem → Bool) : Src → Bool
  | .immediate _ => true
  | .mem m => modes m

/-- The check on a shift's operand: every one of them has the Accumulator mode. -/
def Rmw.allows (modes : Mem → Bool) : Rmw → Bool
  | .accumulator => true
  | .mem m => modes m

/-- The instruction has the addressing mode it carries (R98, R99); a fault slot is one of R101 to R103. -/
def Instr.wellFormed : Instr → Bool
  | .lda o => o.allows Mem.groupOne
  | .ldx o => o.allows Mem.yIndexed
  | .ldy o => o.allows Mem.xIndexed
  | .sta o => o.groupOne
  | .stx o => o.storeX
  | .sty o => o.storeY
  | .stz o => o.xIndexed
  | .tax => true
  | .tay => true
  | .txa => true
  | .tya => true
  | .tsx => true
  | .txs => true
  | .pha => true
  | .php => true
  | .pla => true
  | .plp => true
  | .phx => true
  | .phy => true
  | .plx => true
  | .ply => true
  | .adc o => o.allows Mem.groupOne
  | .sbc o => o.allows Mem.groupOne
  | .cmp o => o.allows Mem.groupOne
  | .cpx o => o.allows Mem.direct
  | .cpy o => o.allows Mem.direct
  | .inc o => o.xIndexed
  | .dec o => o.xIndexed
  | .inx => true
  | .iny => true
  | .dex => true
  | .dey => true
  | .incA => true
  | .decA => true
  | .and o => o.allows Mem.groupOne
  | .ora o => o.allows Mem.groupOne
  | .eor o => o.allows Mem.groupOne
  | .bit o => o.direct
  | .bitImmediate _ => true
  | .asl o => o.allows Mem.xIndexed
  | .lsr o => o.allows Mem.xIndexed
  | .rol o => o.allows Mem.xIndexed
  | .ror o => o.allows Mem.xIndexed
  | .tsb o => o.direct
  | .trb o => o.direct
  | .rmb0 _ => true
  | .rmb1 _ => true
  | .rmb2 _ => true
  | .rmb3 _ => true
  | .rmb4 _ => true
  | .rmb5 _ => true
  | .rmb6 _ => true
  | .rmb7 _ => true
  | .smb0 _ => true
  | .smb1 _ => true
  | .smb2 _ => true
  | .smb3 _ => true
  | .smb4 _ => true
  | .smb5 _ => true
  | .smb6 _ => true
  | .smb7 _ => true
  | .bpl _ => true
  | .bmi _ => true
  | .bvc _ => true
  | .bvs _ => true
  | .bcc _ => true
  | .bcs _ => true
  | .bne _ => true
  | .beq _ => true
  | .bra _ => true
  | .bbr0 _ _ => true
  | .bbr1 _ _ => true
  | .bbr2 _ _ => true
  | .bbr3 _ _ => true
  | .bbr4 _ _ => true
  | .bbr5 _ _ => true
  | .bbr6 _ _ => true
  | .bbr7 _ _ => true
  | .bbs0 _ _ => true
  | .bbs1 _ _ => true
  | .bbs2 _ _ => true
  | .bbs3 _ _ => true
  | .bbs4 _ _ => true
  | .bbs5 _ _ => true
  | .bbs6 _ _ => true
  | .bbs7 _ _ => true
  | .jmp _ => true
  | .jmpIndirect _ => true
  | .jsr _ => true
  | .rts => true
  | .brk => true
  | .rti => true
  | .clc => true
  | .sec => true
  | .cli => true
  | .sei => true
  | .cld => true
  | .sed => true
  | .clv => true
  | .nop => true
  | .wai => true
  | .stp => true
  | .jam op => jamSlots.contains op
  | .notImplemented op => nmosNotImplemented.contains op || cmosNotImplemented.contains op

/-- The instruction is in the variant's descriptor table (R98, R99): the CMOS-only ones are not in the NMOS table, the JAM
slots are only in the NMOS one, and a NotImplemented slot is one of the variant's own. -/
def Instr.inVariant (v : Variant) : Instr → Bool
  | .lda _ => true
  | .ldx _ => true
  | .ldy _ => true
  | .sta _ => true
  | .stx _ => true
  | .sty _ => true
  | .stz _ => v == .cmos
  | .tax => true
  | .tay => true
  | .txa => true
  | .tya => true
  | .tsx => true
  | .txs => true
  | .pha => true
  | .php => true
  | .pla => true
  | .plp => true
  | .phx => v == .cmos
  | .phy => v == .cmos
  | .plx => v == .cmos
  | .ply => v == .cmos
  | .adc _ => true
  | .sbc _ => true
  | .cmp _ => true
  | .cpx _ => true
  | .cpy _ => true
  | .inc _ => true
  | .dec _ => true
  | .inx => true
  | .iny => true
  | .dex => true
  | .dey => true
  | .incA => v == .cmos
  | .decA => v == .cmos
  | .and _ => true
  | .ora _ => true
  | .eor _ => true
  | .bit _ => true
  | .bitImmediate _ => v == .cmos
  | .asl _ => true
  | .lsr _ => true
  | .rol _ => true
  | .ror _ => true
  | .tsb _ => v == .cmos
  | .trb _ => v == .cmos
  | .rmb0 _ => v == .cmos
  | .rmb1 _ => v == .cmos
  | .rmb2 _ => v == .cmos
  | .rmb3 _ => v == .cmos
  | .rmb4 _ => v == .cmos
  | .rmb5 _ => v == .cmos
  | .rmb6 _ => v == .cmos
  | .rmb7 _ => v == .cmos
  | .smb0 _ => v == .cmos
  | .smb1 _ => v == .cmos
  | .smb2 _ => v == .cmos
  | .smb3 _ => v == .cmos
  | .smb4 _ => v == .cmos
  | .smb5 _ => v == .cmos
  | .smb6 _ => v == .cmos
  | .smb7 _ => v == .cmos
  | .bpl _ => true
  | .bmi _ => true
  | .bvc _ => true
  | .bvs _ => true
  | .bcc _ => true
  | .bcs _ => true
  | .bne _ => true
  | .beq _ => true
  | .bra _ => v == .cmos
  | .bbr0 _ _ => v == .cmos
  | .bbr1 _ _ => v == .cmos
  | .bbr2 _ _ => v == .cmos
  | .bbr3 _ _ => v == .cmos
  | .bbr4 _ _ => v == .cmos
  | .bbr5 _ _ => v == .cmos
  | .bbr6 _ _ => v == .cmos
  | .bbr7 _ _ => v == .cmos
  | .bbs0 _ _ => v == .cmos
  | .bbs1 _ _ => v == .cmos
  | .bbs2 _ _ => v == .cmos
  | .bbs3 _ _ => v == .cmos
  | .bbs4 _ _ => v == .cmos
  | .bbs5 _ _ => v == .cmos
  | .bbs6 _ _ => v == .cmos
  | .bbs7 _ _ => v == .cmos
  | .jmp _ => true
  | .jmpIndirect _ => true
  | .jsr _ => true
  | .rts => true
  | .brk => true
  | .rti => true
  | .clc => true
  | .sec => true
  | .cli => true
  | .sei => true
  | .cld => true
  | .sed => true
  | .clv => true
  | .nop => true
  | .wai => v == .cmos
  | .stp => v == .cmos
  | .jam op => v == .nmos && jamSlots.contains op
  | .notImplemented op => (notImplementedSlots v).contains op

end Sys2Proof
end

