-- ==== Sys2Proof/Decode.lean ====
section
/-!
DEFINITION. The descriptor tables (30_encoding.md R98, R99), the decoder (R92, R105) and the encoder.
-/

namespace Sys2Proof

open Machine (word hiByte loByte)

/-- How the operand bytes that follow the opcode make the instruction (R91, R93): none, the byte b1, the address b2:b1, or the
two bytes b1 and b2 of ZeroPageRelative. -/
inductive Shape
  | none (i : Instr)
  | byte (f : Byte → Instr)
  | address (f : Addr → Instr)
  | twoBytes (f : Byte → Byte → Instr)

/-- How many operand bytes follow the opcode: the length column of R91 less one. -/
def Shape.operands : Shape → Nat
  | .none _ => 0
  | .byte _ => 1
  | .address _ => 2
  | .twoBytes _ => 2

/-- The instruction with the operand bytes `b1` and `b2` (R93); a byte the mode does not have is not looked at. -/
def Shape.build : Shape → Byte → Byte → Instr
  | .none i, _, _ => i
  | .byte f, b1, _ => f b1
  | .address f, b1, b2 => f (word b2 b1)
  | .twoBytes f, b1, b2 => f b1 b2

/-- A descriptor, R92: the opcode, what it makes of its operand bytes (mnemonic and mode), and its base cycle count (R100). -/
structure Descriptor where
  opcode : Byte
  shape : Shape
  cycles : Nat

/-- R98, opcodes $00 to $3F. -/
def nmosTable0 : List Descriptor :=
  [
    ⟨0x00, .none .brk, 7⟩,
    ⟨0x01, .byte (.ora <| .mem <| .indexedIndirectX ·), 6⟩,
    ⟨0x05, .byte (.ora <| .mem <| .zeroPage ·), 3⟩,
    ⟨0x06, .byte (.asl <| .mem <| .zeroPage ·), 5⟩,
    ⟨0x08, .none .php, 3⟩,
    ⟨0x09, .byte (.ora <| .immediate ·), 2⟩,
    ⟨0x0A, .none (.asl .accumulator), 2⟩,
    ⟨0x0D, .address (.ora <| .mem <| .absolute ·), 4⟩,
    ⟨0x0E, .address (.asl <| .mem <| .absolute ·), 6⟩,
    ⟨0x10, .byte .bpl, 2⟩,
    ⟨0x11, .byte (.ora <| .mem <| .indirectIndexedY ·), 5⟩,
    ⟨0x15, .byte (.ora <| .mem <| .zeroPageX ·), 4⟩,
    ⟨0x16, .byte (.asl <| .mem <| .zeroPageX ·), 6⟩,
    ⟨0x18, .none .clc, 2⟩,
    ⟨0x19, .address (.ora <| .mem <| .absoluteY ·), 4⟩,
    ⟨0x1D, .address (.ora <| .mem <| .absoluteX ·), 4⟩,
    ⟨0x1E, .address (.asl <| .mem <| .absoluteX ·), 7⟩,
    ⟨0x20, .address .jsr, 6⟩,
    ⟨0x21, .byte (.and <| .mem <| .indexedIndirectX ·), 6⟩,
    ⟨0x24, .byte (.bit <| .zeroPage ·), 3⟩,
    ⟨0x25, .byte (.and <| .mem <| .zeroPage ·), 3⟩,
    ⟨0x26, .byte (.rol <| .mem <| .zeroPage ·), 5⟩,
    ⟨0x28, .none .plp, 4⟩,
    ⟨0x29, .byte (.and <| .immediate ·), 2⟩,
    ⟨0x2A, .none (.rol .accumulator), 2⟩,
    ⟨0x2C, .address (.bit <| .absolute ·), 4⟩,
    ⟨0x2D, .address (.and <| .mem <| .absolute ·), 4⟩,
    ⟨0x2E, .address (.rol <| .mem <| .absolute ·), 6⟩,
    ⟨0x30, .byte .bmi, 2⟩,
    ⟨0x31, .byte (.and <| .mem <| .indirectIndexedY ·), 5⟩,
    ⟨0x35, .byte (.and <| .mem <| .zeroPageX ·), 4⟩,
    ⟨0x36, .byte (.rol <| .mem <| .zeroPageX ·), 6⟩,
    ⟨0x38, .none .sec, 2⟩,
    ⟨0x39, .address (.and <| .mem <| .absoluteY ·), 4⟩,
    ⟨0x3D, .address (.and <| .mem <| .absoluteX ·), 4⟩,
    ⟨0x3E, .address (.rol <| .mem <| .absoluteX ·), 7⟩]

/-- R98, opcodes $40 to $7F. -/
def nmosTable4 : List Descriptor :=
  [
    ⟨0x40, .none .rti, 6⟩,
    ⟨0x41, .byte (.eor <| .mem <| .indexedIndirectX ·), 6⟩,
    ⟨0x45, .byte (.eor <| .mem <| .zeroPage ·), 3⟩,
    ⟨0x46, .byte (.lsr <| .mem <| .zeroPage ·), 5⟩,
    ⟨0x48, .none .pha, 3⟩,
    ⟨0x49, .byte (.eor <| .immediate ·), 2⟩,
    ⟨0x4A, .none (.lsr .accumulator), 2⟩,
    ⟨0x4C, .address .jmp, 3⟩,
    ⟨0x4D, .address (.eor <| .mem <| .absolute ·), 4⟩,
    ⟨0x4E, .address (.lsr <| .mem <| .absolute ·), 6⟩,
    ⟨0x50, .byte .bvc, 2⟩,
    ⟨0x51, .byte (.eor <| .mem <| .indirectIndexedY ·), 5⟩,
    ⟨0x55, .byte (.eor <| .mem <| .zeroPageX ·), 4⟩,
    ⟨0x56, .byte (.lsr <| .mem <| .zeroPageX ·), 6⟩,
    ⟨0x58, .none .cli, 2⟩,
    ⟨0x59, .address (.eor <| .mem <| .absoluteY ·), 4⟩,
    ⟨0x5D, .address (.eor <| .mem <| .absoluteX ·), 4⟩,
    ⟨0x5E, .address (.lsr <| .mem <| .absoluteX ·), 7⟩,
    ⟨0x60, .none .rts, 6⟩,
    ⟨0x61, .byte (.adc <| .mem <| .indexedIndirectX ·), 6⟩,
    ⟨0x65, .byte (.adc <| .mem <| .zeroPage ·), 3⟩,
    ⟨0x66, .byte (.ror <| .mem <| .zeroPage ·), 5⟩,
    ⟨0x68, .none .pla, 4⟩,
    ⟨0x69, .byte (.adc <| .immediate ·), 2⟩,
    ⟨0x6A, .none (.ror .accumulator), 2⟩,
    ⟨0x6C, .address .jmpIndirect, 5⟩,
    ⟨0x6D, .address (.adc <| .mem <| .absolute ·), 4⟩,
    ⟨0x6E, .address (.ror <| .mem <| .absolute ·), 6⟩,
    ⟨0x70, .byte .bvs, 2⟩,
    ⟨0x71, .byte (.adc <| .mem <| .indirectIndexedY ·), 5⟩,
    ⟨0x75, .byte (.adc <| .mem <| .zeroPageX ·), 4⟩,
    ⟨0x76, .byte (.ror <| .mem <| .zeroPageX ·), 6⟩,
    ⟨0x78, .none .sei, 2⟩,
    ⟨0x79, .address (.adc <| .mem <| .absoluteY ·), 4⟩,
    ⟨0x7D, .address (.adc <| .mem <| .absoluteX ·), 4⟩,
    ⟨0x7E, .address (.ror <| .mem <| .absoluteX ·), 7⟩]

/-- R98, opcodes $80 to $BF. -/
def nmosTable8 : List Descriptor :=
  [
    ⟨0x81, .byte (.sta <| .indexedIndirectX ·), 6⟩,
    ⟨0x84, .byte (.sty <| .zeroPage ·), 3⟩,
    ⟨0x85, .byte (.sta <| .zeroPage ·), 3⟩,
    ⟨0x86, .byte (.stx <| .zeroPage ·), 3⟩,
    ⟨0x88, .none .dey, 2⟩,
    ⟨0x8A, .none .txa, 2⟩,
    ⟨0x8C, .address (.sty <| .absolute ·), 4⟩,
    ⟨0x8D, .address (.sta <| .absolute ·), 4⟩,
    ⟨0x8E, .address (.stx <| .absolute ·), 4⟩,
    ⟨0x90, .byte .bcc, 2⟩,
    ⟨0x91, .byte (.sta <| .indirectIndexedY ·), 6⟩,
    ⟨0x94, .byte (.sty <| .zeroPageX ·), 4⟩,
    ⟨0x95, .byte (.sta <| .zeroPageX ·), 4⟩,
    ⟨0x96, .byte (.stx <| .zeroPageY ·), 4⟩,
    ⟨0x98, .none .tya, 2⟩,
    ⟨0x99, .address (.sta <| .absoluteY ·), 5⟩,
    ⟨0x9A, .none .txs, 2⟩,
    ⟨0x9D, .address (.sta <| .absoluteX ·), 5⟩,
    ⟨0xA0, .byte (.ldy <| .immediate ·), 2⟩,
    ⟨0xA1, .byte (.lda <| .mem <| .indexedIndirectX ·), 6⟩,
    ⟨0xA2, .byte (.ldx <| .immediate ·), 2⟩,
    ⟨0xA4, .byte (.ldy <| .mem <| .zeroPage ·), 3⟩,
    ⟨0xA5, .byte (.lda <| .mem <| .zeroPage ·), 3⟩,
    ⟨0xA6, .byte (.ldx <| .mem <| .zeroPage ·), 3⟩,
    ⟨0xA8, .none .tay, 2⟩,
    ⟨0xA9, .byte (.lda <| .immediate ·), 2⟩,
    ⟨0xAA, .none .tax, 2⟩,
    ⟨0xAC, .address (.ldy <| .mem <| .absolute ·), 4⟩,
    ⟨0xAD, .address (.lda <| .mem <| .absolute ·), 4⟩,
    ⟨0xAE, .address (.ldx <| .mem <| .absolute ·), 4⟩,
    ⟨0xB0, .byte .bcs, 2⟩,
    ⟨0xB1, .byte (.lda <| .mem <| .indirectIndexedY ·), 5⟩,
    ⟨0xB4, .byte (.ldy <| .mem <| .zeroPageX ·), 4⟩,
    ⟨0xB5, .byte (.lda <| .mem <| .zeroPageX ·), 4⟩,
    ⟨0xB6, .byte (.ldx <| .mem <| .zeroPageY ·), 4⟩,
    ⟨0xB8, .none .clv, 2⟩,
    ⟨0xB9, .address (.lda <| .mem <| .absoluteY ·), 4⟩,
    ⟨0xBA, .none .tsx, 2⟩,
    ⟨0xBC, .address (.ldy <| .mem <| .absoluteX ·), 4⟩,
    ⟨0xBD, .address (.lda <| .mem <| .absoluteX ·), 4⟩,
    ⟨0xBE, .address (.ldx <| .mem <| .absoluteY ·), 4⟩]

/-- R98, opcodes $C0 to $FF. -/
def nmosTableC : List Descriptor :=
  [
    ⟨0xC0, .byte (.cpy <| .immediate ·), 2⟩,
    ⟨0xC1, .byte (.cmp <| .mem <| .indexedIndirectX ·), 6⟩,
    ⟨0xC4, .byte (.cpy <| .mem <| .zeroPage ·), 3⟩,
    ⟨0xC5, .byte (.cmp <| .mem <| .zeroPage ·), 3⟩,
    ⟨0xC6, .byte (.dec <| .zeroPage ·), 5⟩,
    ⟨0xC8, .none .iny, 2⟩,
    ⟨0xC9, .byte (.cmp <| .immediate ·), 2⟩,
    ⟨0xCA, .none .dex, 2⟩,
    ⟨0xCC, .address (.cpy <| .mem <| .absolute ·), 4⟩,
    ⟨0xCD, .address (.cmp <| .mem <| .absolute ·), 4⟩,
    ⟨0xCE, .address (.dec <| .absolute ·), 6⟩,
    ⟨0xD0, .byte .bne, 2⟩,
    ⟨0xD1, .byte (.cmp <| .mem <| .indirectIndexedY ·), 5⟩,
    ⟨0xD5, .byte (.cmp <| .mem <| .zeroPageX ·), 4⟩,
    ⟨0xD6, .byte (.dec <| .zeroPageX ·), 6⟩,
    ⟨0xD8, .none .cld, 2⟩,
    ⟨0xD9, .address (.cmp <| .mem <| .absoluteY ·), 4⟩,
    ⟨0xDD, .address (.cmp <| .mem <| .absoluteX ·), 4⟩,
    ⟨0xDE, .address (.dec <| .absoluteX ·), 7⟩,
    ⟨0xE0, .byte (.cpx <| .immediate ·), 2⟩,
    ⟨0xE1, .byte (.sbc <| .mem <| .indexedIndirectX ·), 6⟩,
    ⟨0xE4, .byte (.cpx <| .mem <| .zeroPage ·), 3⟩,
    ⟨0xE5, .byte (.sbc <| .mem <| .zeroPage ·), 3⟩,
    ⟨0xE6, .byte (.inc <| .zeroPage ·), 5⟩,
    ⟨0xE8, .none .inx, 2⟩,
    ⟨0xE9, .byte (.sbc <| .immediate ·), 2⟩,
    ⟨0xEA, .none .nop, 2⟩,
    ⟨0xEC, .address (.cpx <| .mem <| .absolute ·), 4⟩,
    ⟨0xED, .address (.sbc <| .mem <| .absolute ·), 4⟩,
    ⟨0xEE, .address (.inc <| .absolute ·), 6⟩,
    ⟨0xF0, .byte .beq, 2⟩,
    ⟨0xF1, .byte (.sbc <| .mem <| .indirectIndexedY ·), 5⟩,
    ⟨0xF5, .byte (.sbc <| .mem <| .zeroPageX ·), 4⟩,
    ⟨0xF6, .byte (.inc <| .zeroPageX ·), 6⟩,
    ⟨0xF8, .none .sed, 2⟩,
    ⟨0xF9, .address (.sbc <| .mem <| .absoluteY ·), 4⟩,
    ⟨0xFD, .address (.sbc <| .mem <| .absoluteX ·), 4⟩,
    ⟨0xFE, .address (.inc <| .absoluteX ·), 7⟩]

/-- R99, opcodes $00 to $7F. -/
def cmosTable0 : List Descriptor :=
  [
    ⟨0x04, .byte (.tsb <| .zeroPage ·), 5⟩,
    ⟨0x07, .byte .rmb0, 5⟩,
    ⟨0x0C, .address (.tsb <| .absolute ·), 6⟩,
    ⟨0x0F, .twoBytes .bbr0, 5⟩,
    ⟨0x14, .byte (.trb <| .zeroPage ·), 5⟩,
    ⟨0x17, .byte .rmb1, 5⟩,
    ⟨0x1A, .none .incA, 2⟩,
    ⟨0x1C, .address (.trb <| .absolute ·), 6⟩,
    ⟨0x1F, .twoBytes .bbr1, 5⟩,
    ⟨0x27, .byte .rmb2, 5⟩,
    ⟨0x2F, .twoBytes .bbr2, 5⟩,
    ⟨0x37, .byte .rmb3, 5⟩,
    ⟨0x3A, .none .decA, 2⟩,
    ⟨0x3F, .twoBytes .bbr3, 5⟩,
    ⟨0x47, .byte .rmb4, 5⟩,
    ⟨0x4F, .twoBytes .bbr4, 5⟩,
    ⟨0x57, .byte .rmb5, 5⟩,
    ⟨0x5A, .none .phy, 3⟩,
    ⟨0x5F, .twoBytes .bbr5, 5⟩,
    ⟨0x64, .byte (.stz <| .zeroPage ·), 3⟩,
    ⟨0x67, .byte .rmb6, 5⟩,
    ⟨0x6F, .twoBytes .bbr6, 5⟩,
    ⟨0x74, .byte (.stz <| .zeroPageX ·), 4⟩,
    ⟨0x77, .byte .rmb7, 5⟩,
    ⟨0x7A, .none .ply, 4⟩,
    ⟨0x7F, .twoBytes .bbr7, 5⟩]

/-- R99, opcodes $80 to $FF. -/
def cmosTable8 : List Descriptor :=
  [
    ⟨0x80, .byte .bra, 3⟩,
    ⟨0x87, .byte .smb0, 5⟩,
    ⟨0x89, .byte .bitImmediate, 2⟩,
    ⟨0x8F, .twoBytes .bbs0, 5⟩,
    ⟨0x97, .byte .smb1, 5⟩,
    ⟨0x9C, .address (.stz <| .absolute ·), 4⟩,
    ⟨0x9E, .address (.stz <| .absoluteX ·), 5⟩,
    ⟨0x9F, .twoBytes .bbs1, 5⟩,
    ⟨0xA7, .byte .smb2, 5⟩,
    ⟨0xAF, .twoBytes .bbs2, 5⟩,
    ⟨0xB7, .byte .smb3, 5⟩,
    ⟨0xBF, .twoBytes .bbs3, 5⟩,
    ⟨0xC7, .byte .smb4, 5⟩,
    ⟨0xCB, .none .wai, 3⟩,
    ⟨0xCF, .twoBytes .bbs4, 5⟩,
    ⟨0xD7, .byte .smb5, 5⟩,
    ⟨0xDA, .none .phx, 3⟩,
    ⟨0xDB, .none .stp, 3⟩,
    ⟨0xDF, .twoBytes .bbs5, 5⟩,
    ⟨0xE7, .byte .smb6, 5⟩,
    ⟨0xEF, .twoBytes .bbs6, 5⟩,
    ⟨0xF7, .byte .smb7, 5⟩,
    ⟨0xFA, .none .plx, 4⟩,
    ⟨0xFF, .twoBytes .bbs7, 5⟩]

/-- The NMOS descriptor table, R98: 151 instructions. -/
def nmosTable : List Descriptor := nmosTable0 ++ nmosTable4 ++ nmosTable8 ++ nmosTableC

/-- The 50 slots the CMOS table substitutes, R99. -/
def cmosTable : List Descriptor := cmosTable0 ++ cmosTable8

/-- The descriptor table of a variant (R98, R99). -/
def descriptorTable : Variant → List Descriptor
  | .nmos => nmosTable
  | .cmos => nmosTable ++ cmosTable

/-- The descriptor of an opcode, or none for a fault slot (R92). -/
def lookup (v : Variant) (op : Byte) : Option Descriptor :=
  (descriptorTable v).find? (fun d => d.opcode == op)

/-- What a slot without a descriptor holds: a JAM slot is InvalidOpcode under NMOS (R101), every other one NotImplemented
(R102, R103). -/
def faultSlot (v : Variant) (op : Byte) : Instr :=
  if v == .nmos && jamSlots.contains op then .jam op else .notImplemented op

/-- Is the slot a fault slot of the variant? -/
def isFaultSlot (v : Variant) (op : Byte) : Bool := (lookup v op).isNone

/-- How many operand bytes follow the opcode; none after a fault slot, whose length is undefined (R105). -/
def operandCount (v : Variant) (op : Byte) : Nat :=
  match lookup v op with
  | some d => d.shape.operands
  | none => 0

/-- The base cycle count of an opcode (R100). -/
def baseCycles (v : Variant) (op : Byte) : Nat :=
  match lookup v op with
  | some d => d.cycles
  | none => 0

/-- The instruction an opcode and its operand bytes make. -/
def assemble (v : Variant) (op b1 b2 : Byte) : Instr :=
  match lookup v op with
  | some d => d.shape.build b1 b2
  | none => faultSlot v op

/-- Why bytes are no instruction: nothing was given, or operand bytes are missing. Every opcode has an entry (R92), so there is
no third reason. -/
inductive DecodeError
  | noOpcode
  | missingOperand (opcode : Byte)
  deriving DecidableEq, Repr

/-- The decoder, R105: one opcode byte, the variant's descriptor, then its operand bytes; the rest of the bytes is returned. -/
def decode (v : Variant) : List Byte → Except DecodeError (Instr × List Byte)
  | [] => .error .noOpcode
  | op :: rest =>
    match operandCount v op, rest with
    | 0, _ => .ok (assemble v op 0 0, rest)
    | 1, b1 :: rest' => .ok (assemble v op b1 0, rest')
    | 2, b1 :: b2 :: rest' => .ok (assemble v op b1 b2, rest')
    | _, _ => .error (.missingOperand op)

/-- The variant a word of spec/opcode_table.json is read under when the table's number alone is given: NMOS for the twelve JAM
slots, which only NMOS has, and CMOS, the superset, for every other opcode (DESIGN CHOICE, log entry 9). -/
def tableVariant (op : Byte) : Variant := if jamSlots.contains op then .nmos else .cmos

/-- The bytes of a table word as they lie in memory: byte k is bits [8k+7:8k] (spec/INDEX.md), and every bit above `nbits`
is 0. Three bytes, the longest instruction. -/
def tableBytes (nbits w : Nat) : List Byte :=
  let w := w % 2 ^ nbits
  [BitVec.ofNat 8 w, BitVec.ofNat 8 (w / 256), BitVec.ofNat 8 (w / 65536)]

/-- The instruction the decoder reads from a word numbered as spec/opcode_table.json numbers it. -/
def decodeTableWord (nbits w : Nat) : Option Instr :=
  match decode (tableVariant (BitVec.ofNat 8 (w % 2 ^ nbits))) (tableBytes nbits w) with
  | .ok (i, _) => some i
  | .error _ => none

/-! The encoder, written from the "Encoding" lines of the instruction rules (R131 to R271), mode by mode. -/

/-- An opcode and the byte b1. -/
def bytes2 (op b : Byte) : List Byte := [op, b]

/-- An opcode and an address, low byte first (R61). -/
def bytes3 (op : Byte) (a : Addr) : List Byte := [op, loByte a, hiByte a]

/-- The opcodes of one mnemonic's memory modes; none where it lacks the mode. -/
structure MemOpcodes where
  zeroPage : Option Byte := none
  zeroPageX : Option Byte := none
  zeroPageY : Option Byte := none
  absolute : Option Byte := none
  absoluteX : Option Byte := none
  absoluteY : Option Byte := none
  indexedIndirectX : Option Byte := none
  indirectIndexedY : Option Byte := none

/-- The bytes of a memory form; nothing for a mode the mnemonic lacks. -/
def MemOpcodes.encode (t : MemOpcodes) : Mem → List Byte
  | .zeroPage z => t.zeroPage.elim [] (bytes2 · z)
  | .zeroPageX z => t.zeroPageX.elim [] (bytes2 · z)
  | .zeroPageY z => t.zeroPageY.elim [] (bytes2 · z)
  | .absolute a => t.absolute.elim [] (bytes3 · a)
  | .absoluteX a => t.absoluteX.elim [] (bytes3 · a)
  | .absoluteY a => t.absoluteY.elim [] (bytes3 · a)
  | .indexedIndirectX z => t.indexedIndirectX.elim [] (bytes2 · z)
  | .indirectIndexedY z => t.indirectIndexedY.elim [] (bytes2 · z)

/-- The bytes of a read instruction: its Immediate opcode and its memory opcodes. -/
def encodeSrc (imm : Byte) (t : MemOpcodes) : Src → List Byte
  | .immediate v => bytes2 imm v
  | .mem m => t.encode m

/-- The bytes of a shift: its Accumulator opcode and its memory opcodes. -/
def encodeRmw (acc : Byte) (t : MemOpcodes) : Rmw → List Byte
  | .accumulator => [acc]
  | .mem m => t.encode m

/-- LDA, R131. -/
def ldaOpcodes : MemOpcodes :=
  { zeroPage := some 0xA5, zeroPageX := some 0xB5, absolute := some 0xAD, absoluteX := some 0xBD, absoluteY := some 0xB9, indexedIndirectX := some 0xA1, indirectIndexedY := some 0xB1 }

/-- LDX, R132. -/
def ldxOpcodes : MemOpcodes :=
  { zeroPage := some 0xA6, zeroPageY := some 0xB6, absolute := some 0xAE, absoluteY := some 0xBE }

/-- LDY, R133. -/
def ldyOpcodes : MemOpcodes :=
  { zeroPage := some 0xA4, zeroPageX := some 0xB4, absolute := some 0xAC, absoluteX := some 0xBC }

/-- STA, R134. -/
def staOpcodes : MemOpcodes :=
  { zeroPage := some 0x85, zeroPageX := some 0x95, absolute := some 0x8D, absoluteX := some 0x9D, absoluteY := some 0x99, indexedIndirectX := some 0x81, indirectIndexedY := some 0x91 }

/-- STX, R135. -/
def stxOpcodes : MemOpcodes :=
  { zeroPage := some 0x86, zeroPageY := some 0x96, absolute := some 0x8E }

/-- STY, R136. -/
def styOpcodes : MemOpcodes :=
  { zeroPage := some 0x84, zeroPageX := some 0x94, absolute := some 0x8C }

/-- STZ, R137. -/
def stzOpcodes : MemOpcodes :=
  { zeroPage := some 0x64, zeroPageX := some 0x74, absolute := some 0x9C, absoluteX := some 0x9E }

/-- ADC, R170. -/
def adcOpcodes : MemOpcodes :=
  { zeroPage := some 0x65, zeroPageX := some 0x75, absolute := some 0x6D, absoluteX := some 0x7D, absoluteY := some 0x79, indexedIndirectX := some 0x61, indirectIndexedY := some 0x71 }

/-- SBC, R174. -/
def sbcOpcodes : MemOpcodes :=
  { zeroPage := some 0xE5, zeroPageX := some 0xF5, absolute := some 0xED, absoluteX := some 0xFD, absoluteY := some 0xF9, indexedIndirectX := some 0xE1, indirectIndexedY := some 0xF1 }

/-- CMP, R176. -/
def cmpOpcodes : MemOpcodes :=
  { zeroPage := some 0xC5, zeroPageX := some 0xD5, absolute := some 0xCD, absoluteX := some 0xDD, absoluteY := some 0xD9, indexedIndirectX := some 0xC1, indirectIndexedY := some 0xD1 }

/-- CPX, R177. -/
def cpxOpcodes : MemOpcodes :=
  { zeroPage := some 0xE4, absolute := some 0xEC }

/-- CPY, R178. -/
def cpyOpcodes : MemOpcodes :=
  { zeroPage := some 0xC4, absolute := some 0xCC }

/-- INC, R179. -/
def incOpcodes : MemOpcodes :=
  { zeroPage := some 0xE6, zeroPageX := some 0xF6, absolute := some 0xEE, absoluteX := some 0xFE }

/-- DEC, R180. -/
def decOpcodes : MemOpcodes :=
  { zeroPage := some 0xC6, zeroPageX := some 0xD6, absolute := some 0xCE, absoluteX := some 0xDE }

/-- AND, R200. -/
def andOpcodes : MemOpcodes :=
  { zeroPage := some 0x25, zeroPageX := some 0x35, absolute := some 0x2D, absoluteX := some 0x3D, absoluteY := some 0x39, indexedIndirectX := some 0x21, indirectIndexedY := some 0x31 }

/-- ORA, R201. -/
def oraOpcodes : MemOpcodes :=
  { zeroPage := some 0x05, zeroPageX := some 0x15, absolute := some 0x0D, absoluteX := some 0x1D, absoluteY := some 0x19, indexedIndirectX := some 0x01, indirectIndexedY := some 0x11 }

/-- EOR, R202. -/
def eorOpcodes : MemOpcodes :=
  { zeroPage := some 0x45, zeroPageX := some 0x55, absolute := some 0x4D, absoluteX := some 0x5D, absoluteY := some 0x59, indexedIndirectX := some 0x41, indirectIndexedY := some 0x51 }

/-- BIT, R203. -/
def bitOpcodes : MemOpcodes :=
  { zeroPage := some 0x24, absolute := some 0x2C }

/-- ASL, R205. -/
def aslOpcodes : MemOpcodes :=
  { zeroPage := some 0x06, zeroPageX := some 0x16, absolute := some 0x0E, absoluteX := some 0x1E }

/-- LSR, R206. -/
def lsrOpcodes : MemOpcodes :=
  { zeroPage := some 0x46, zeroPageX := some 0x56, absolute := some 0x4E, absoluteX := some 0x5E }

/-- ROL, R207. -/
def rolOpcodes : MemOpcodes :=
  { zeroPage := some 0x26, zeroPageX := some 0x36, absolute := some 0x2E, absoluteX := some 0x3E }

/-- ROR, R208. -/
def rorOpcodes : MemOpcodes :=
  { zeroPage := some 0x66, zeroPageX := some 0x76, absolute := some 0x6E, absoluteX := some 0x7E }

/-- TSB, R209. -/
def tsbOpcodes : MemOpcodes :=
  { zeroPage := some 0x04, absolute := some 0x0C }

/-- TRB, R210. -/
def trbOpcodes : MemOpcodes :=
  { zeroPage := some 0x14, absolute := some 0x1C }

/-- The bytes of a well-formed instruction, opcode first. -/
def Instr.encode : Instr → List Byte
  | .lda o => encodeSrc 0xA9 ldaOpcodes o
  | .ldx o => encodeSrc 0xA2 ldxOpcodes o
  | .ldy o => encodeSrc 0xA0 ldyOpcodes o
  | .sta o => staOpcodes.encode o
  | .stx o => stxOpcodes.encode o
  | .sty o => styOpcodes.encode o
  | .stz o => stzOpcodes.encode o
  | .tax => [0xAA]
  | .tay => [0xA8]
  | .txa => [0x8A]
  | .tya => [0x98]
  | .tsx => [0xBA]
  | .txs => [0x9A]
  | .pha => [0x48]
  | .php => [0x08]
  | .pla => [0x68]
  | .plp => [0x28]
  | .phx => [0xDA]
  | .phy => [0x5A]
  | .plx => [0xFA]
  | .ply => [0x7A]
  | .adc o => encodeSrc 0x69 adcOpcodes o
  | .sbc o => encodeSrc 0xE9 sbcOpcodes o
  | .cmp o => encodeSrc 0xC9 cmpOpcodes o
  | .cpx o => encodeSrc 0xE0 cpxOpcodes o
  | .cpy o => encodeSrc 0xC0 cpyOpcodes o
  | .inc o => incOpcodes.encode o
  | .dec o => decOpcodes.encode o
  | .inx => [0xE8]
  | .iny => [0xC8]
  | .dex => [0xCA]
  | .dey => [0x88]
  | .incA => [0x1A]
  | .decA => [0x3A]
  | .and o => encodeSrc 0x29 andOpcodes o
  | .ora o => encodeSrc 0x09 oraOpcodes o
  | .eor o => encodeSrc 0x49 eorOpcodes o
  | .bit o => bitOpcodes.encode o
  | .bitImmediate b => bytes2 0x89 b
  | .asl o => encodeRmw 0x0A aslOpcodes o
  | .lsr o => encodeRmw 0x4A lsrOpcodes o
  | .rol o => encodeRmw 0x2A rolOpcodes o
  | .ror o => encodeRmw 0x6A rorOpcodes o
  | .tsb o => tsbOpcodes.encode o
  | .trb o => trbOpcodes.encode o
  | .rmb0 z => bytes2 0x07 z
  | .rmb1 z => bytes2 0x17 z
  | .rmb2 z => bytes2 0x27 z
  | .rmb3 z => bytes2 0x37 z
  | .rmb4 z => bytes2 0x47 z
  | .rmb5 z => bytes2 0x57 z
  | .rmb6 z => bytes2 0x67 z
  | .rmb7 z => bytes2 0x77 z
  | .smb0 z => bytes2 0x87 z
  | .smb1 z => bytes2 0x97 z
  | .smb2 z => bytes2 0xA7 z
  | .smb3 z => bytes2 0xB7 z
  | .smb4 z => bytes2 0xC7 z
  | .smb5 z => bytes2 0xD7 z
  | .smb6 z => bytes2 0xE7 z
  | .smb7 z => bytes2 0xF7 z
  | .bpl b => bytes2 0x10 b
  | .bmi b => bytes2 0x30 b
  | .bvc b => bytes2 0x50 b
  | .bvs b => bytes2 0x70 b
  | .bcc b => bytes2 0x90 b
  | .bcs b => bytes2 0xB0 b
  | .bne b => bytes2 0xD0 b
  | .beq b => bytes2 0xF0 b
  | .bra b => bytes2 0x80 b
  | .bbr0 z d => [0x0F, z, d]
  | .bbr1 z d => [0x1F, z, d]
  | .bbr2 z d => [0x2F, z, d]
  | .bbr3 z d => [0x3F, z, d]
  | .bbr4 z d => [0x4F, z, d]
  | .bbr5 z d => [0x5F, z, d]
  | .bbr6 z d => [0x6F, z, d]
  | .bbr7 z d => [0x7F, z, d]
  | .bbs0 z d => [0x8F, z, d]
  | .bbs1 z d => [0x9F, z, d]
  | .bbs2 z d => [0xAF, z, d]
  | .bbs3 z d => [0xBF, z, d]
  | .bbs4 z d => [0xCF, z, d]
  | .bbs5 z d => [0xDF, z, d]
  | .bbs6 z d => [0xEF, z, d]
  | .bbs7 z d => [0xFF, z, d]
  | .jmp a => bytes3 0x4C a
  | .jmpIndirect a => bytes3 0x6C a
  | .jsr a => bytes3 0x20 a
  | .rts => [0x60]
  | .brk => [0x00]
  | .rti => [0x40]
  | .clc => [0x18]
  | .sec => [0x38]
  | .cli => [0x58]
  | .sei => [0x78]
  | .cld => [0xD8]
  | .sed => [0xF8]
  | .clv => [0xB8]
  | .nop => [0xEA]
  | .wai => [0xCB]
  | .stp => [0xDB]
  | .jam op => [op]
  | .notImplemented op => [op]

end Sys2Proof
end

