-- ==== Sys2Proof/Machine/Memory.lean ====
section
/-!
DEFINITION. The contents of one RAM or ROM device (60_exceptions.md R330, R331): a list of address and byte pairs in one canonical
form, addresses strictly rising and no entry equal to what an unlisted address reads as.
-/

namespace Sys2Proof.Machine

/-- The contents of a memory device. -/
abbrev Memory := List Host.Cell

/-- What an address that is not listed reads as. The initial contents are a parameter of the device (`RAM_INIT`, `ROM_IMAGE`), so
this only says which byte the list leaves out: $00, DESIGN CHOICE, log entry 7. -/
def Memory.unlisted : Byte := 0

/-- The byte at address `a`. -/
def Memory.read : Memory → Nat → Byte
  | [], _ => Memory.unlisted
  | (k, w) :: rest, a => if k = a then w else Memory.read rest a

/-- The contents without any entry for `a`. -/
def Memory.erase (m : Memory) (a : Nat) : Memory := m.filter (fun c => c.1 != a)

/-- Put an entry in front of the first higher address. -/
def Memory.insert : Memory → Nat → Byte → Memory
  | [], a, v => [(a, v)]
  | (k, w) :: rest, a, v => if a < k then (a, v) :: (k, w) :: rest else (k, w) :: Memory.insert rest a v

/-- Store `v` at address `a`, keeping the canonical form: the old entry goes, and a new one is listed unless `v` is what an unlisted
address reads as. -/
def Memory.write (m : Memory) (a : Nat) (v : Byte) : Memory :=
  if v = Memory.unlisted then m.erase a else (m.erase a).insert a v

/-- Every address listed is above `k`. -/
def Memory.above (k : Nat) (m : Memory) : Bool := m.all (fun c => decide (k < c.1))

/-- The canonical form. -/
def Memory.wf : Memory → Bool
  | [] => true
  | (k, w) :: rest => w != Memory.unlisted && Memory.above k rest && Memory.wf rest

end Sys2Proof.Machine
end

