-- ==== Sys2Proof/Machine/Device.lean ====
section
/-!
DEFINITION. The devices at their bus interface (20_memory.md R53, R59): those of 60_exceptions.md R330 to R339, any other device (R308),
and the host's side of it (R346, R347). Reading, writing, clocking and resetting one device, and its range. The Bus that routes to
them is Machine/Bus.lean.
-/

namespace Sys2Proof.Machine

/-- The timer's state, R332. -/
structure Timer where
  enable : Bool
  nmi : Bool
  interval : BitVec 24
  counter : BitVec 24
  deriving DecidableEq, Repr

/-- The display's latches, R337. -/
structure Display where
  charX : Byte
  charY : Byte
  cursorX : Byte
  cursorY : Byte
  pixelX : BitVec 16
  pixelY : BitVec 16
  deriving DecidableEq, Repr

/-- The two interrupt kinds, R303. -/
inductive InterruptKind
  | nmi
  | irq
  deriving DecidableEq, Repr

/-- A call on a device, R53. -/
inductive DeviceCall
  | get (a : Addr)
  | set (a : Addr) (v : Byte)
  | clock
  | reset
  deriving DecidableEq, Repr

/-- A registered device with its range and its own state (20_memory.md R51, R60). RAM and ROM carry both ends of their range, and so
does an addressable `other`; the rest have a fixed size from their `start`. `cpu` is the CPU engine's place in the registration
order; its state is the rest of `State`. -/
inductive Device
  /-- the CPU engine, a clockable device without a range (R53, R300) -/
  | cpu
  /-- RAM, R330 -/
  | ram (start stop : Addr) (cells : Memory)
  /-- ROM, R331 -/
  | rom (start stop : Addr) (image : Memory)
  /-- timer, R332 to R334 -/
  | timer (start : Addr) (t : Timer)
  /-- real-time clock, R335 -/
  | rtc (start : Addr)
  /-- parallel port, R336 -/
  | parallel (start : Addr) (data : Byte)
  /-- display, R337 -/
  | display (start : Addr) (d : Display)
  /-- keyboard, R338 -/
  | keyboard (start : Addr)
  /-- mouse, R339 -/
  | mouse (start : Addr)
  /-- any other device (R53, R59, R308): addressable over `range`, or only clockable where there is none. The spec gives it no
  registers, so its state is the calls made on it, the latest first (DESIGN CHOICE, log entry 15) -/
  | other (range : Option (Addr × Addr)) (calls : List DeviceCall)
  deriving DecidableEq, Repr

/-- A host event, R346. -/
inductive HostEvent
  | parallelChar (c : Byte)
  | setChar (x y c : Byte)
  | setPixel (x y : BitVec 16) (v : Byte)
  | moveCursor (x y : Byte)
  | textOut (c : Byte)
  deriving DecidableEq, Repr

/-- The host's side of the device interface: the event history (R346), and the model's own two fields for host draws (R347): the
answers the host has ready, and how many free values have been taken (log entry 4). -/
structure HostIO where
  events : List HostEvent
  answers : List Byte
  draws : Nat
  deriving DecidableEq, Repr

/-- What a call on a device leaves, R59: the device with its state, the host's side, and the interrupts it requested, in order. -/
structure Reply where
  device : Device
  io : HostIO
  requests : List InterruptKind
  deriving DecidableEq, Repr

/-- One host draw, R347: the next ready answer, or a free value. -/
def draw (io : HostIO) : Byte × HostIO :=
  match io.answers with
  | v :: rest => (v, { io with answers := rest })
  | [] => (Config.hostDraw io.draws, { io with draws := io.draws + 1 })

/-- Append an event to the history, R346. -/
def emit (e : HostEvent) (io : HostIO) : HostIO := { io with events := io.events ++ [e] }

/-- A draw held to the range `lo` to `hi` (R335): any byte of the range, and none outside (DEDUCED, log entry 10). -/
def drawBetween (lo hi : Nat) (io : HostIO) : Byte × HostIO :=
  let v := (draw io).1.toNat
  (if lo ≤ v ∧ v ≤ hi then (draw io).1 else BitVec.ofNat 8 (lo + v % (hi + 1 - lo)), (draw io).2)

/-- First and last address of an addressable device, R52: the sizes are those of R332, R335 to R339. -/
def deviceRange : Device → Option (Nat × Nat)
  | .cpu => none
  | .ram start stop _ => some (start.toNat, stop.toNat)
  | .rom start stop _ => some (start.toNat, stop.toNat)
  | .timer start _ => some (start.toNat, start.toNat + 3)
  | .rtc start => some (start.toNat, start.toNat + 8)
  | .parallel start _ => some (start.toNat, start.toNat + 1)
  | .display start _ => some (start.toNat, start.toNat + 10)
  | .keyboard start => some (start.toNat, start.toNat)
  | .mouse start => some (start.toNat, start.toNat + 4)
  | .other range _ => range.map (fun r => (r.1.toNat, r.2.toNat))

/-- The range is one R52 allows: end not below start, inside the 16-bit space. -/
def validRange (d : Device) : Bool :=
  match deviceRange d with
  | some (lo, hi) => decide (lo ≤ hi) && decide (hi ≤ 0xFFFF)
  | none => true

/-- The device's range contains `a`, R54. -/
def deviceContains (d : Device) (a : Addr) : Bool :=
  match deviceRange d with
  | some (lo, hi) => decide (lo ≤ a.toNat) && decide (a.toNat ≤ hi)
  | none => false

/-- The offset of `a` in a device that starts at `start`, R53. -/
def registerOffset (start a : Addr) : Nat := a.toNat - start.toNat

/-- Byte `k` of a 24-bit value. -/
def byteOf24 (v : BitVec 24) (k : Nat) : Byte := v.extractLsb' (8 * k) 8

/-- A 24-bit value with byte `k` replaced. -/
def setByteOf24 (v : BitVec 24) (k : Nat) (b : Byte) : BitVec 24 :=
  match k with
  | 0 => v.extractLsb' 16 8 ++ v.extractLsb' 8 8 ++ b
  | 1 => v.extractLsb' 16 8 ++ b ++ v.extractLsb' 0 8
  | _ => b ++ v.extractLsb' 8 8 ++ v.extractLsb' 0 8

/-- The timer's control register as it is read, R332. -/
def timerControl (t : Timer) : Byte := 0#6 ++ BitVec.ofBool t.nmi ++ BitVec.ofBool t.enable

/-- Read timer register `k`, R332. -/
def timerGet (t : Timer) : Nat → Byte
  | 0 => timerControl t
  | k + 1 => byteOf24 t.interval k

/-- Write timer register `k`, R332: enabling from disabled resets the counter. -/
def timerSet (t : Timer) (k : Nat) (v : Byte) : Timer :=
  match k with
  | 0 =>
    { t with
      counter := if !t.enable && v.getLsbD 0 then 0 else t.counter
      enable := v.getLsbD 0
      nmi := v.getLsbD 1 }
  | k + 1 => { t with interval := setByteOf24 t.interval k v }

/-- One `clock()` of the timer, R333: its new state, and whether it fires. -/
def timerClock (t : Timer) : Timer × Bool :=
  if t.enable then
    if t.interval ≠ 0 ∧ t.counter + 1 = t.interval then ({ t with counter := 0 }, true)
    else ({ t with counter := t.counter + 1 }, false)
  else (t, false)

/-- Read register `k` of the real-time clock, R335: year low and high, month, day, hour, minute, second, millisecond low and high,
each a draw in its own range. -/
def rtcGet (k : Nat) (io : HostIO) : Byte × HostIO :=
  match k with
  | 2 => drawBetween 1 12 io
  | 3 => drawBetween 1 31 io
  | 4 => drawBetween 0 23 io
  | 5 => drawBetween 0 59 io
  | 6 => drawBetween 0 59 io
  | 8 => drawBetween 0 3 io
  | _ => draw io

/-- Read display register `k`, R337. -/
def displayGet (d : Display) (k : Nat) (io : HostIO) : Byte × HostIO :=
  match k with
  | 0 => (d.charX, io)
  | 1 => (d.charY, io)
  | 3 => (loByte d.pixelX, io)
  | 4 => (hiByte d.pixelX, io)
  | 5 => (loByte d.pixelY, io)
  | 6 => (hiByte d.pixelY, io)
  | 8 => (d.cursorX, io)
  | 9 => (d.cursorY, io)
  | _ => draw io

/-- Write display register `k`, R337. After TextOut the new cursor is two draws, X then Y (log entry 11). -/
def displaySet (d : Display) (k : Nat) (v : Byte) (io : HostIO) : Display × HostIO :=
  match k with
  | 0 => ({ d with charX := v }, io)
  | 1 => ({ d with charY := v }, io)
  | 2 => (d, emit (.setChar d.charX d.charY v) io)
  | 3 => ({ d with pixelX := word (hiByte d.pixelX) v }, io)
  | 4 => ({ d with pixelX := word v (loByte d.pixelX) }, io)
  | 5 => ({ d with pixelY := word (hiByte d.pixelY) v }, io)
  | 6 => ({ d with pixelY := word v (loByte d.pixelY) }, io)
  | 7 => (d, emit (.setPixel d.pixelX d.pixelY v) io)
  | 8 => ({ d with cursorX := v }, emit (.moveCursor v d.cursorY) io)
  | 9 => ({ d with cursorY := v }, emit (.moveCursor d.cursorX v) io)
  | _ =>
    let x := draw (emit (.textOut v) io)
    let y := draw x.2
    ({ d with cursorX := x.1, cursorY := y.1 }, y.2)

/-- Two draws as one 16-bit value, low byte first. -/
def drawWord (io : HostIO) : BitVec 16 × HostIO :=
  let lo := draw io
  let hi := draw lo.2
  (word hi.1 lo.1, hi.2)

/-- A host event that is drawn: any of the five of R346, with any contents. -/
def drawEvent (io : HostIO) : HostEvent × HostIO :=
  let kind := draw io
  match kind.1.toNat % 5 with
  | 0 => (.parallelChar (draw kind.2).1, (draw kind.2).2)
  | 1 =>
    let x := draw kind.2
    let y := draw x.2
    (.setChar x.1 y.1 (draw y.2).1, (draw y.2).2)
  | 2 =>
    let x := drawWord kind.2
    let y := drawWord x.2
    (.setPixel x.1 y.1 (draw y.2).1, (draw y.2).2)
  | 3 =>
    let x := draw kind.2
    (.moveCursor x.1 (draw x.2).1, (draw x.2).2)
  | _ => (.textOut (draw kind.2).1, (draw kind.2).2)

/-- Emit `n` drawn events. -/
def emitDrawn (n : Nat) (io : HostIO) : HostIO :=
  match n with
  | 0 => io
  | n + 1 => emitDrawn n (emit (drawEvent io).1 (drawEvent io).2)

/-- The interrupts that bits 0 (NMI) and 1 (IRQ) of a byte ask for. -/
def requestsOf (v : Byte) : List InterruptKind :=
  (if v.getLsbD 0 then [.nmi] else []) ++ (if v.getLsbD 1 then [.irq] else [])

/-- What any other device does in a call, R59, R308: its state changes, it may request either interrupt and it may emit events. Which
it does is drawn, since the spec leaves it open (log entry 15). -/
def otherCall (range : Option (Addr × Addr)) (calls : List DeviceCall) (call : DeviceCall) (io : HostIO) : Reply :=
  let asked := draw io
  let count := draw asked.2
  { device := .other range (call :: calls)
    io := emitDrawn count.1.toNat count.2
    requests := requestsOf asked.1 }

/-- A call that changes neither the device nor anything beyond the host's side. -/
def quiet (d : Device) (io : HostIO) : Reply := { device := d, io := io, requests := [] }

/-- The byte a device's `get(a)` answers and the host's side after it, for the devices whose own state no read changes (R330 to
R339). -/
def registerGet (d : Device) (a : Addr) (io : HostIO) : Byte × HostIO :=
  match d with
  | .ram _ _ cells => (cells.read a.toNat, io)
  | .rom _ _ image => (image.read a.toNat, io)
  | .timer start t => (timerGet t (registerOffset start a), io)
  | .rtc start => rtcGet (registerOffset start a) io
  | .parallel start data => if registerOffset start a = 0 then (data, io) else draw io
  | .display start d => displayGet d (registerOffset start a) io
  | .keyboard _ => draw io
  | .mouse _ => draw io
  | .cpu => (0xFF, io)
  | .other _ _ => draw io

/-- `get(a)`, R53: the byte, and what the call leaves. Another device's byte is a draw, taken before the call's side effects. -/
def deviceGet (d : Device) (a : Addr) (io : HostIO) : Byte × Reply :=
  let v := registerGet d a io
  match d with
  | .other range calls => (v.1, otherCall range calls (.get a) v.2)
  | _ => (v.1, quiet d v.2)

/-- `set(a, v)`, R53: what the call leaves. -/
def deviceSet (d : Device) (a : Addr) (v : Byte) (io : HostIO) : Reply :=
  match d with
  | .cpu => quiet d io
  | .ram start stop cells => quiet (.ram start stop (cells.write a.toNat v)) io
  | .rom _ _ _ => quiet d io
  | .timer start t => quiet (.timer start (timerSet t (registerOffset start a) v)) io
  | .rtc _ => quiet d io
  | .parallel start data =>
    if registerOffset start a = 0 then quiet (.parallel start v) io
    else quiet d (if v.getLsbD 0 then emit (.parallelChar data) io else io)
  | .display start r =>
    quiet (.display start (displaySet r (registerOffset start a) v io).1) (displaySet r (registerOffset start a) v io).2
  | .keyboard _ => quiet d io
  | .mouse _ => quiet d io
  | .other range calls => otherCall range calls (.set a v) io

/-- The request a firing timer makes, R333. -/
def timerKind (t : Timer) : InterruptKind := if t.nmi then .nmi else .irq

/-- `clock()` of a device other than the CPU, R53: the timer counts and may request (R333), any other device may do what R59 lists,
and those of R330, R331 and R335 to R339 do nothing. -/
def deviceClock (d : Device) (io : HostIO) : Reply :=
  match d with
  | .timer start t =>
    { device := .timer start (timerClock t).1
      io := io
      requests := if (timerClock t).2 then [timerKind t] else [] }
  | .other range calls => otherCall range calls .clock io
  | _ => quiet d io

/-- `reset()` of a device other than the CPU, R372: RAM and ROM keep their contents, the timer is zeroed (R334), the parallel port's
data and the display's latches are draws, and no device requests an interrupt or emits an event. -/
def deviceReset (d : Device) (io : HostIO) : Device × HostIO :=
  match d with
  | .timer start _ => (.timer start { enable := false, nmi := false, interval := 0, counter := 0 }, io)
  | .parallel start _ => (.parallel start (draw io).1, (draw io).2)
  | .display start _ =>
    let charX := draw io
    let charY := draw charX.2
    let cursorX := draw charY.2
    let cursorY := draw cursorX.2
    let pixelXlo := draw cursorY.2
    let pixelXhi := draw pixelXlo.2
    let pixelYlo := draw pixelXhi.2
    let pixelYhi := draw pixelYlo.2
    (.display start
      { charX := charX.1, charY := charY.1, cursorX := cursorX.1, cursorY := cursorY.1,
        pixelX := word pixelXhi.1 pixelXlo.1, pixelY := word pixelYhi.1 pixelYlo.1 },
      pixelYhi.2)
  | .other range calls => (.other range (.reset :: calls), io)
  | _ => (d, io)

end Sys2Proof.Machine
end

