-- ==== Sys2Proof/Machine/Bus.lean ====
section
/-!
DEFINITION. The Bus (20_memory.md R55, R56): routing of one byte's read or write over the registered devices, and what the devices'
side effects add to it (R59).
-/

namespace Sys2Proof.Machine

/-- Who requested an interrupt, R31: the device at that place of the registration order, or the host (R341). The spec leaves the
form of a handle open: DESIGN CHOICE, log entry 16. -/
inductive Handle
  | device (index : Nat)
  | host
  deriving DecidableEq, Repr

/-- One call of an interrupt entry point, R303. -/
structure Request where
  kind : InterruptKind
  source : Handle
  deriving DecidableEq, Repr

/-- What a Bus access leaves: the devices with their state, the host's side, and the interrupts requested, in order (R59). -/
structure BusReply where
  devices : List Device
  io : HostIO
  requests : List Request
  deriving DecidableEq, Repr

/-- The requests a device at place `k` made. -/
def requestsFrom (k : Nat) (kinds : List InterruptKind) : List Request :=
  kinds.map (fun kind => { kind := kind, source := .device k })

/-- Bus read, R55, over the devices from place `k` on: the first matching device answers; $FF where none matches (open bus). -/
def busReadFrom (k : Nat) (devices : List Device) (io : HostIO) (a : Addr) : Byte × BusReply :=
  match devices with
  | [] => (0xFF, { devices := [], io := io, requests := [] })
  | d :: rest =>
    if deviceContains d a then
      let r := deviceGet d a io
      (r.1, { devices := r.2.device :: rest, io := r.2.io, requests := requestsFrom k r.2.requests })
    else
      let r := busReadFrom (k + 1) rest io a
      (r.1, { r.2 with devices := d :: r.2.devices })

/-- Bus write, R56, over the devices from place `k` on: every matching device's `set`, in registration order; no effect where none
matches. -/
def busWriteFrom (k : Nat) (devices : List Device) (io : HostIO) (a : Addr) (v : Byte) : BusReply :=
  match devices with
  | [] => { devices := [], io := io, requests := [] }
  | d :: rest =>
    let r := if deviceContains d a then deviceSet d a v io else quiet d io
    let tail := busWriteFrom (k + 1) rest r.io a v
    { devices := r.device :: tail.devices, io := tail.io, requests := requestsFrom k r.requests ++ tail.requests }

/-- Bus read, R55. -/
def busRead (devices : List Device) (io : HostIO) (a : Addr) : Byte × BusReply := busReadFrom 0 devices io a

/-- Bus write, R56. -/
def busWrite (devices : List Device) (io : HostIO) (a : Addr) (v : Byte) : BusReply := busWriteFrom 0 devices io a v

/-- What memory holds at `a`: the byte a Bus read finds without the host or a device register being asked, that is, where RAM, ROM
or nothing answers (R55, R330, R331). Not an operation of the machine; claims are stated with it. -/
def memoryByte (devices : List Device) (a : Addr) : Option Byte :=
  match devices with
  | [] => some 0xFF
  | d :: rest =>
    if deviceContains d a then
      match d with
      | .ram _ _ cells => some (cells.read a.toNat)
      | .rom _ _ image => some (image.read a.toNat)
      | _ => none
    else memoryByte rest a

end Sys2Proof.Machine
end

