-- ==== Sys2Proof/Machine/State.lean ====
section
/-!
DEFINITION. The machine's state (10_state.md R20, 20_memory.md R51, 60_exceptions.md R351), the reasons a step stops, and the state
right after reset.
-/

namespace Sys2Proof.Machine

/-- The fatal errors, R322: each is recorded in `State.fault` when the fetch boundary raises it (R320), and is the outcome of
every step after that (R325). -/
inductive Fault
  /-- raised by the fetch boundary for an NMOS JAM slot (R275); safe: the spec halts there too -/
  | invalidOpcode (opcode : Byte) (address : Addr)
  /-- raised by the fetch boundary for a NotImplemented slot (R276); safe: the spec halts there too -/
  | notImplemented (opcode : Byte) (address : Addr)
  /-- raised by the fetch boundary for opcode $00 when `BRK_IS_STOP` is set (R323); safe: the spec halts there too -/
  | brkStop (opcode : Byte) (address : Addr)
  /-- raised by the breakpoint loop after `MAX_REDIRECTS` redirects (R340); safe: the spec halts there too -/
  | breakpointRedirectLimit (opcode : Byte) (address : Addr)
  deriving DecidableEq, Repr

/-- Why the model gives a state no step at all. -/
inductive Refusal
  /-- an instruction without a meaning, named by its mnemonic; raised by no arm of `exec` now; safe -/
  | notModelled (mnemonic : String)
  /-- raised by every step of a state whose configuration R321 calls an error (a device range that ends before it starts or
  lies outside 16 bits), or that R7 or R319 rules out (`RESET_CYCLES` 0, not exactly one CPU); safe: such a system has no run -/
  | configurationError
  deriving DecidableEq, Repr

/-- The seven flags of the status register `P`, R20, R33 to R38. -/
structure Status where
  n : Bool
  v : Bool
  b : Bool
  d : Bool
  i : Bool
  z : Bool
  c : Bool
  deriving DecidableEq, Repr

/-- The run states, R27. -/
inductive RunState
  | normal
  | waiting
  | stopped
  deriving DecidableEq, Repr

/-- The whole machine: the CPU record of R20, the devices with their own state (R60), the host's side (R346, R347), the number of
`clock()` calls made (R351) and the configuration (R7). -/
structure State where
  /-- the configuration parameters; no step changes them -/
  cfg : Config
  a : Byte
  x : Byte
  y : Byte
  sp : Byte
  pc : Addr
  p : Status
  instrCycles : Nat
  totalCycles : Nat
  nmiPending : Option Handle
  irqPending : Option Handle
  runState : RunState
  fault : Option Fault
  /-- the registered devices, in registration order -/
  devices : List Device
  io : HostIO
  clockCalls : Nat
  deriving DecidableEq, Repr

/-- What a meaning answers: one of the host's three outcomes. -/
abbrev Result := Host.Outcome State Fault Refusal

/-- The registered devices of `State.reset`: RAM over the whole address space, then the CPU, the configuration E1 of
95_test_vectors.md. `DEVICES` is open (D35): DESIGN CHOICE, log entry 2. -/
def defaultDevices : List Device := [.ram 0x0000 0xFFFF [], .cpu]

/-- The status register after reset, R42: I set, every other flag clear. -/
def Status.reset : Status :=
  { n := false, v := false, b := false, d := false, i := true, z := false, c := false }

/-- The machine right after reset (R42, R372) under the default configuration (log entry 2). A, X and Y are three draws of the host
(D5), which may be any bytes: here the host answers 0 to each (DESIGN CHOICE, log entry 3). The PC is the word at `RESET_VEC`, low
byte first (R370). -/
def State.reset : State where
  cfg := Config.default
  a := 0
  x := 0
  y := 0
  sp := 0xFD
  pc :=
    word (busRead defaultDevices ⟨[], [], 0⟩ (Config.default.resetVec + 1)).1
      (busRead defaultDevices ⟨[], [], 0⟩ Config.default.resetVec).1
  p := Status.reset
  instrCycles := Config.default.resetCycles
  totalCycles := 0
  nmiPending := none
  irqPending := none
  runState := .normal
  fault := none
  devices := defaultDevices
  io := { events := [], answers := [], draws := 0 }
  clockCalls := 0

end Sys2Proof.Machine
end

