-- ==== Sys2Proof/Machine/Flags.lean ====
section
/-!
DEFINITION. The status byte (10_state.md R24 to R26) and every flag computation: add and subtract in both modes (42_arithmetic.md R171 to
R175), compare (R176), bit test (43_logical_shift.md R203, R204), shifts and rotates (R205 to R208).
-/

namespace Sys2Proof.Machine

/-- `setNZ(v)`, R24. -/
def setNZ (v : Byte) (p : Status) : Status := { p with z := v == 0, n := v.getLsbD 7 }

/-- `serialize(P, b4)`, R25: N V 1 b4 D I Z C from bit 7 down. -/
def serialize (p : Status) (b4 : Bool) : Byte :=
  BitVec.ofBool p.n ++ BitVec.ofBool p.v ++ 1#1 ++ BitVec.ofBool b4 ++
    BitVec.ofBool p.d ++ BitVec.ofBool p.i ++ BitVec.ofBool p.z ++ BitVec.ofBool p.c

/-- `deserialize(v)`, R26: bit 5 is ignored. -/
def deserialize (v : Byte) : Status where
  n := v.getLsbD 7
  v := v.getLsbD 6
  b := v.getLsbD 4
  d := v.getLsbD 3
  i := v.getLsbD 2
  z := v.getLsbD 1
  c := v.getLsbD 0

/-- What an addition or a subtraction gives: the new A, the carry and the overflow. N and Z follow the result (R171, R173, R175). -/
structure AluResult where
  value : Byte
  carry : Bool
  overflow : Bool
  deriving DecidableEq, Repr

/-- Binary add, R171: the exact sum, then narrowed. -/
def adcBinary (a m : Byte) (c : Bool) : AluResult :=
  let s := a.toNat + m.toNat + c.toNat
  let r := BitVec.ofNat 8 s
  { value := r
    carry := decide (s > 0xFF)
    overflow := (~~~(a ^^^ m) &&& (a ^^^ r) &&& 0x80) != 0 }

/-- Decimal add, R172 and R173, for every pair of bytes. -/
def adcDecimal (a m : Byte) (c : Bool) : AluResult :=
  let al0 := (a &&& 0x0F).toNat + (m &&& 0x0F).toNat + c.toNat
  let al := if al0 ≥ 0x0A then (al0 + 0x06) % 16 + 0x10 else al0
  let s0 := (a &&& 0xF0).toNat + (m &&& 0xF0).toNat + al
  let s := if s0 ≥ 0xA0 then s0 + 0x60 else s0
  let t := (a &&& 0xF0).toInt + (m &&& 0xF0).toInt + (al : Int)
  { value := BitVec.ofNat 8 s
    carry := decide (s ≥ 0x100)
    overflow := decide (t < -128) || decide (t > 127) }

/-- Binary subtract, R174: the addition of the complement. -/
def sbcBinary (a m : Byte) (c : Bool) : AluResult := adcBinary a (m ^^^ 0xFF) c

/-- Decimal subtract, R175, for every pair of bytes: C and V from the binary subtraction. -/
def sbcDecimal (a m : Byte) (c : Bool) : AluResult :=
  let s := a.toNat + (m ^^^ 0xFF).toNat + c.toNat
  let b := BitVec.ofNat 8 s
  let al0 : Int := ((a &&& 0x0F).toNat : Int) - ((m &&& 0x0F).toNat : Int) + (c.toNat : Int) - 1
  let al := if al0 < 0 then (al0 - 0x06) % 16 - 0x10 else al0
  let t0 := ((a &&& 0xF0).toNat : Int) - ((m &&& 0xF0).toNat : Int) + al
  let t := if t0 < 0 then t0 - 0x60 else t0
  { value := BitVec.ofInt 8 t
    carry := decide (s > 0xFF)
    overflow := ((a ^^^ m) &&& (a ^^^ b) &&& 0x80) != 0 }

/-- The flags after ADC or SBC: C and V from the result, N and Z of its value. -/
def arithmeticFlags (r : AluResult) (p : Status) : Status :=
  setNZ r.value { p with c := r.carry, v := r.overflow }

/-- Compare a register with `m`, R176 to R178: C unsigned not-below, Z equal, N bit 7 of the difference. -/
def compareFlags (reg m : Byte) (p : Status) : Status :=
  { p with c := decide (m.toNat ≤ reg.toNat), z := reg == m, n := (reg - m).getLsbD 7 }

/-- BIT in its memory modes, R203. -/
def bitFlags (a m : Byte) (p : Status) : Status :=
  { p with z := (a &&& m) == 0, n := m.getLsbD 7, v := m.getLsbD 6 }

/-- The Z of BIT #, TSB and TRB, R204, R209, R210. -/
def testFlags (a m : Byte) (p : Status) : Status := { p with z := (a &&& m) == 0 }

/-- A read-modify-write computation: the byte read and the flags before, the byte written and the flags after. -/
abbrev Modify := Byte → Status → Byte × Status

/-- ASL, R205. -/
def aslOp : Modify := fun v p => (v <<< 1, setNZ (v <<< 1) { p with c := v.getLsbD 7 })

/-- LSR, R206. -/
def lsrOp : Modify := fun v p => (v >>> 1, setNZ (v >>> 1) { p with c := v.getLsbD 0 })

/-- ROL, R207: the old carry enters bit 0. -/
def rolOp : Modify := fun v p =>
  let r := (v <<< 1) ||| (BitVec.ofBool p.c).setWidth 8
  (r, setNZ r { p with c := v.getLsbD 7 })

/-- ROR, R208: the old carry enters bit 7. -/
def rorOp : Modify := fun v p =>
  let r := (v >>> 1) ||| ((BitVec.ofBool p.c).setWidth 8 <<< 7)
  (r, setNZ r { p with c := v.getLsbD 0 })

/-- INC, R179, R185. -/
def incOp : Modify := fun v p => (v + 1, setNZ (v + 1) p)

/-- DEC, R180, R186. -/
def decOp : Modify := fun v p => (v - 1, setNZ (v - 1) p)

/-- TSB with the accumulator `a`, R209. -/
def tsbOp (a : Byte) : Modify := fun m p => (m ||| a, testFlags a m p)

/-- TRB with the accumulator `a`, R210. -/
def trbOp (a : Byte) : Modify := fun m p => (m &&& ~~~a, testFlags a m p)

/-- RMBn, R211. -/
def rmbOp (n : Nat) : Modify := fun m p => (m &&& ~~~(oneBit n), p)

/-- SMBn, R212. -/
def smbOp (n : Nat) : Modify := fun m p => (m ||| oneBit n, p)

end Sys2Proof.Machine
end

