-- ==== Sys2Proof/Machine/Ops.lean ====
section
/-!
DEFINITION. The named operations over memory, the stack and the registers (20_memory.md), the one operation that takes an exception and
the return from it (45_system.md R260, R261, 60_exceptions.md R311), interrupt requests (R303, R59) and raising a fault (R320).
-/

namespace Sys2Proof.Machine

/-- What a latch holds after requests made in that order: the handle of the last one of its kind, R303. A faulted CPU ignores them
(R325, D33). -/
def latchAfter (faulted : Bool) (kind : InterruptKind) (requests : List Request) (latch : Option Handle) : Option Handle :=
  match requests with
  | [] => latch
  | r :: rest => latchAfter faulted kind rest (if !faulted && r.kind == kind then some r.source else latch)

/-- One call of an entry point, R303: a latch, and nothing else, changes. -/
def request (kind : InterruptKind) (source : Handle) (s : State) : State :=
  { s with
    nmiPending := latchAfter s.fault.isSome .nmi [{ kind := kind, source := source }] s.nmiPending
    irqPending := latchAfter s.fault.isSome .irq [{ kind := kind, source := source }] s.irqPending }

/-- The state after a Bus access or a device's clock, with the side effects, R59: the requests are taken as if made one by one. -/
def afterAccess (r : BusReply) (s : State) : State :=
  { s with
    devices := r.devices
    io := r.io
    nmiPending := latchAfter s.fault.isSome .nmi r.requests s.nmiPending
    irqPending := latchAfter s.fault.isSome .irq r.requests s.irqPending }

/-- `MemRead(a, 1)`, R55: the byte, and the state after the answering device's side effects. -/
def memRead (s : State) (a : Addr) : Byte × State :=
  ((busRead s.devices s.io a).1, afterAccess (busRead s.devices s.io a).2 s)

/-- `MemWrite(a, 1, v)`, R56. -/
def memWrite (s : State) (a : Addr) (v : Byte) : State := afterAccess (busWrite s.devices s.io a v) s

/-- `ReadWord(a)`, R62: low byte first, the high byte at `a + 1` mod 65536. -/
def readWord (s : State) (a : Addr) : Addr × State :=
  let lo := memRead s a
  let hi := memRead lo.2 (a + 1)
  (word hi.1 lo.1, hi.2)

/-- The stack address `$0100 | SP`, R65. -/
def stackAddr (sp : Byte) : Addr := 0x0100 ||| zext16 sp

/-- `push(v)`, R65. -/
def push (v : Byte) (s : State) : State :=
  { memWrite s (stackAddr s.sp) v with sp := s.sp - 1 }

/-- `pull()`, R66. -/
def pull (s : State) : Byte × State := memRead { s with sp := s.sp + 1 } (stackAddr (s.sp + 1))

/-- `fetch()`, R94: the byte at PC, and PC advanced. -/
def fetch (s : State) : Byte × State :=
  let v := memRead s s.pc
  (v.1, { v.2 with pc := s.pc + 1 })

/-- The status byte as the host reads it, R40. -/
def statusByte (s : State) : Byte := serialize s.p s.p.b

/-- Push an address, high byte first (R61). -/
def pushWord (w : Addr) (s : State) : State := push (loByte w) (push (hiByte w) s)

/-- Pull an address, low byte first (R242, R261). -/
def pullWord (s : State) : Addr × State :=
  let lo := pull s
  let hi := pull lo.2
  (word hi.1 lo.1, hi.2)

/-- Taking an exception, R311 and R260: push PC, push the status byte with bit 4 as given, set I, load PC from the vector. The D flag
and the stored B flag are unchanged. -/
def enterException (b4 : Bool) (vector : Addr) (s : State) : State :=
  let pushed := push (serialize s.p b4) (pushWord s.pc s)
  let target := readWord { pushed with p := { pushed.p with i := true } } vector
  { target.2 with pc := target.1 }

/-- The return from an exception, R261: status, then PC, and B forced to 1. -/
def returnFromException (s : State) : State :=
  let status := pull s
  let ret := pullWord { status.2 with p := { deserialize status.1 with b := true } }
  { ret.2 with pc := ret.1 }

/-- `raise Fault(...)`, R320: the record is set and nothing else changes; the call ends there (Machine/Clock.lean). -/
def raise (f : Fault) (s : State) : State := { s with fault := some f }

/-- Which interrupt a fetch boundary services, R302. -/
def eligible (s : State) : Option InterruptKind :=
  if s.nmiPending.isSome then some .nmi
  else if s.irqPending.isSome && !s.p.i then some .irq
  else none

/-- The vector of an interrupt kind, R311. -/
def vectorOf (cfg : Config) : InterruptKind → Addr
  | .nmi => cfg.nmiVec
  | .irq => cfg.irqVec

/-- Empty the latch of the serviced kind, R311. -/
def clearLatch (kind : InterruptKind) (s : State) : State :=
  match kind with
  | .nmi => { s with nmiPending := none }
  | .irq => { s with irqPending := none }

/-- `serviceInterrupt(kind)`, R310 and R311: the entry with bit 4 of the pushed status 0 and PC not advanced, the serviced latch
emptied, BRK's base cycles charged. -/
def serviceInterrupt (kind : InterruptKind) (s : State) : State :=
  { clearLatch kind (enterException false (vectorOf s.cfg kind) s) with
    instrCycles := baseCycles s.cfg.variant 0x00 }

end Sys2Proof.Machine
end

