-- ==== Sys2Proof/Machine/Operands.lean ====
section
/-!
DEFINITION. Operand resolution (30_encoding.md R95, R97) and the two data-access helpers (R96), for every addressing mode. The operand
bytes have been fetched already (R94), so PC is the address of the next instruction.
-/

namespace Sys2Proof.Machine

/-- `resolve(mode)` for the modes that name a memory byte, R95: EA, and the state after the pointer reads. -/
def effectiveAddress (m : Mem) (s : State) : Addr × State :=
  match m with
  | .zeroPage z => (zext16 z, s)
  | .zeroPageX z => (zext16 (z + s.x), s)
  | .zeroPageY z => (zext16 (z + s.y), s)
  | .absolute a => (a, s)
  | .absoluteX a => (a + zext16 s.x, s)
  | .absoluteY a => (a + zext16 s.y, s)
  | .indexedIndirectX z =>
    let lo := memRead s (zext16 (z + s.x))
    let hi := memRead lo.2 (zext16 (z + s.x + 1))
    (word hi.1 lo.1, hi.2)
  | .indirectIndexedY z =>
    let lo := memRead s (zext16 z)
    let hi := memRead lo.2 (zext16 (z + 1))
    (word hi.1 lo.1 + zext16 s.y, hi.2)

/-- `resolve(Indirect)`, R95: the high byte is read from the pointer's own page. -/
def indirectTarget (pointer : Addr) (s : State) : Addr × State :=
  let lo := memRead s pointer
  let hi := memRead lo.2 (word (hiByte pointer) (loByte pointer + 1))
  (word hi.1 lo.1, hi.2)

/-- `resolve(Relative)` and TGT of ZeroPageRelative, R95, R97: the displacement from the next instruction. -/
def branchTarget (d : Byte) (s : State) : Addr := s.pc + sext8 d

/-- `load()` of a memory operand, R96. -/
def loadMem (m : Mem) (s : State) : Byte × State :=
  let ea := effectiveAddress m s
  memRead ea.2 ea.1

/-- `load()` of a read instruction, R96. -/
def load (src : Src) (s : State) : Byte × State :=
  match src with
  | .immediate v => (v, s)
  | .mem m => loadMem m s

/-- `store(v)` of a write instruction, R96: one write, no read of EA. -/
def store (dst : Mem) (v : Byte) (s : State) : State :=
  let ea := effectiveAddress dst s
  memWrite ea.2 ea.1 v

/-- A read-modify-write of memory, R96: one read of EA, then one write to it. -/
def modifyMem (op : Modify) (dst : Mem) (s : State) : State :=
  let ea := effectiveAddress dst s
  let v := memRead ea.2 ea.1
  let r := op v.1 s.p
  memWrite { v.2 with p := r.2 } ea.1 r.1

/-- A read-modify-write of the accumulator, R96. -/
def modifyAcc (op : Modify) (s : State) : State :=
  { s with a := (op s.a s.p).1, p := (op s.a s.p).2 }

/-- A read-modify-write of either. -/
def modifyRmw (op : Modify) (dst : Rmw) (s : State) : State :=
  match dst with
  | .accumulator => modifyAcc op s
  | .mem m => modifyMem op m s

end Sys2Proof.Machine
end

