-- ==== Sys2Proof/Machine/LoadStore.lean ====
section
/-!
DEFINITION. The load and store instructions (40_load_store.md).
-/

namespace Sys2Proof.Machine

/-- Load a register: the byte, what writes it, and N and Z of it (R131 to R133, R158, R162, R163). -/
def loadInto (write : Byte → State → State) (v : Byte × State) : State :=
  write v.1 { v.2 with p := setNZ v.1 v.2.p }

/-- `A <- v` -/
def setA (v : Byte) (s : State) : State := { s with a := v }

/-- `X <- v` -/
def setX (v : Byte) (s : State) : State := { s with x := v }

/-- `Y <- v` -/
def setY (v : Byte) (s : State) : State := { s with y := v }

/-- LDA, R131. -/
def execLda (src : Src) (s : State) : Result :=
  .next (loadInto setA (load src s))

/-- LDX, R132. -/
def execLdx (src : Src) (s : State) : Result :=
  .next (loadInto setX (load src s))

/-- LDY, R133. -/
def execLdy (src : Src) (s : State) : Result :=
  .next (loadInto setY (load src s))

/-- STA, R134. -/
def execSta (dst : Mem) (s : State) : Result :=
  .next (store dst s.a s)

/-- STX, R135. -/
def execStx (dst : Mem) (s : State) : Result :=
  .next (store dst s.x s)

/-- STY, R136. -/
def execSty (dst : Mem) (s : State) : Result :=
  .next (store dst s.y s)

/-- STZ, R137. -/
def execStz (dst : Mem) (s : State) : Result :=
  .next (store dst 0 s)


end Sys2Proof.Machine
end

