-- ==== Sys2Proof/Machine/Arithmetic.lean ====
section
/-!
DEFINITION. The arithmetic, compare, increment and decrement instructions (42_arithmetic.md).
-/

namespace Sys2Proof.Machine

/-- ADC and SBC write A and the flags from the result of the mode D selects (R170, R174). -/
def arithmetic (binary decimal : Byte → Byte → Bool → AluResult) (m : Byte × State) : State :=
  let s := m.2
  let r := if s.p.d then decimal s.a m.1 s.p.c else binary s.a m.1 s.p.c
  { s with a := r.value, p := arithmeticFlags r s.p }

/-- A compare writes the flags only (R176 to R178). -/
def compareRegister (reg : Byte) (m : Byte × State) : State := { m.2 with p := compareFlags reg m.1 m.2.p }

/-- ADC, R170. -/
def execAdc (src : Src) (s : State) : Result :=
  .next (arithmetic adcBinary adcDecimal (load src s))

/-- SBC, R174. -/
def execSbc (src : Src) (s : State) : Result :=
  .next (arithmetic sbcBinary sbcDecimal (load src s))

/-- CMP, R176. -/
def execCmp (src : Src) (s : State) : Result :=
  .next (compareRegister s.a (load src s))

/-- CPX, R177. -/
def execCpx (src : Src) (s : State) : Result :=
  .next (compareRegister s.x (load src s))

/-- CPY, R178. -/
def execCpy (src : Src) (s : State) : Result :=
  .next (compareRegister s.y (load src s))

/-- INC of memory, R179. -/
def execInc (dst : Mem) (s : State) : Result :=
  .next (modifyMem incOp dst s)

/-- DEC of memory, R180. -/
def execDec (dst : Mem) (s : State) : Result :=
  .next (modifyMem decOp dst s)

/-- INX, R181. -/
def execInx (s : State) : Result :=
  .next (loadInto setX (s.x + 1, s))

/-- INY, R182. -/
def execIny (s : State) : Result :=
  .next (loadInto setY (s.y + 1, s))

/-- DEX, R183. -/
def execDex (s : State) : Result :=
  .next (loadInto setX (s.x - 1, s))

/-- DEY, R184. -/
def execDey (s : State) : Result :=
  .next (loadInto setY (s.y - 1, s))

/-- INC A, R185. -/
def execIncA (s : State) : Result :=
  .next (modifyAcc incOp s)

/-- DEC A, R186. -/
def execDecA (s : State) : Result :=
  .next (modifyAcc decOp s)


end Sys2Proof.Machine
end

