-- ==== Sys2Proof/Machine/Control.lean ====
section
/-!
DEFINITION. The control transfer instructions (44_control.md).
-/

namespace Sys2Proof.Machine

/-- The common branch rule, R230: PC is the next instruction's address, and the target's if the condition holds. -/
def branchIf (cond : Bool) (d : Byte) (s : State) : State :=
  if cond then { s with pc := branchTarget d s } else s

/-- BBRn and BBSn, R243, R244: the zero-page byte is read whether or not the branch is taken; `level` is the bit's value that
takes it. -/
def branchOnBit (n : Nat) (level : Bool) (z d : Byte) (s : State) : State :=
  let m := memRead s (zext16 z)
  branchIf (m.1.getLsbD n == level) d m.2

/-- BPL, R231. -/
def execBpl (d : Byte) (s : State) : Result :=
  .next (branchIf (!s.p.n) d s)

/-- BMI, R232. -/
def execBmi (d : Byte) (s : State) : Result :=
  .next (branchIf s.p.n d s)

/-- BVC, R233. -/
def execBvc (d : Byte) (s : State) : Result :=
  .next (branchIf (!s.p.v) d s)

/-- BVS, R234. -/
def execBvs (d : Byte) (s : State) : Result :=
  .next (branchIf s.p.v d s)

/-- BCC, R235. -/
def execBcc (d : Byte) (s : State) : Result :=
  .next (branchIf (!s.p.c) d s)

/-- BCS, R236. -/
def execBcs (d : Byte) (s : State) : Result :=
  .next (branchIf s.p.c d s)

/-- BNE, R237. -/
def execBne (d : Byte) (s : State) : Result :=
  .next (branchIf (!s.p.z) d s)

/-- BEQ, R238. -/
def execBeq (d : Byte) (s : State) : Result :=
  .next (branchIf s.p.z d s)

/-- BRA, R239. -/
def execBra (d : Byte) (s : State) : Result :=
  .next { s with pc := branchTarget d s }

/-- BBR0, R243. -/
def execBbr0 (z d : Byte) (s : State) : Result :=
  .next (branchOnBit 0 false z d s)

/-- BBR1, R243. -/
def execBbr1 (z d : Byte) (s : State) : Result :=
  .next (branchOnBit 1 false z d s)

/-- BBR2, R243. -/
def execBbr2 (z d : Byte) (s : State) : Result :=
  .next (branchOnBit 2 false z d s)

/-- BBR3, R243. -/
def execBbr3 (z d : Byte) (s : State) : Result :=
  .next (branchOnBit 3 false z d s)

/-- BBR4, R243. -/
def execBbr4 (z d : Byte) (s : State) : Result :=
  .next (branchOnBit 4 false z d s)

/-- BBR5, R243. -/
def execBbr5 (z d : Byte) (s : State) : Result :=
  .next (branchOnBit 5 false z d s)

/-- BBR6, R243. -/
def execBbr6 (z d : Byte) (s : State) : Result :=
  .next (branchOnBit 6 false z d s)

/-- BBR7, R243. -/
def execBbr7 (z d : Byte) (s : State) : Result :=
  .next (branchOnBit 7 false z d s)

/-- BBS0, R244. -/
def execBbs0 (z d : Byte) (s : State) : Result :=
  .next (branchOnBit 0 true z d s)

/-- BBS1, R244. -/
def execBbs1 (z d : Byte) (s : State) : Result :=
  .next (branchOnBit 1 true z d s)

/-- BBS2, R244. -/
def execBbs2 (z d : Byte) (s : State) : Result :=
  .next (branchOnBit 2 true z d s)

/-- BBS3, R244. -/
def execBbs3 (z d : Byte) (s : State) : Result :=
  .next (branchOnBit 3 true z d s)

/-- BBS4, R244. -/
def execBbs4 (z d : Byte) (s : State) : Result :=
  .next (branchOnBit 4 true z d s)

/-- BBS5, R244. -/
def execBbs5 (z d : Byte) (s : State) : Result :=
  .next (branchOnBit 5 true z d s)

/-- BBS6, R244. -/
def execBbs6 (z d : Byte) (s : State) : Result :=
  .next (branchOnBit 6 true z d s)

/-- BBS7, R244. -/
def execBbs7 (z d : Byte) (s : State) : Result :=
  .next (branchOnBit 7 true z d s)

/-- JMP absolute, R240. -/
def execJmp (target : Addr) (s : State) : Result :=
  .next { s with pc := target }

/-- JMP indirect with the page-wrap bug, R240. -/
def execJmpIndirect (pointer : Addr) (s : State) : Result :=
  .next { (indirectTarget pointer s).2 with pc := (indirectTarget pointer s).1 }

/-- JSR, R241: pushes the address of its own last byte. -/
def execJsr (target : Addr) (s : State) : Result :=
  .next { pushWord (s.pc - 1) s with pc := target }

/-- RTS, R242. -/
def execRts (s : State) : Result :=
  .next { (pullWord s).2 with pc := (pullWord s).1 + 1 }


end Sys2Proof.Machine
end

