-- ==== Sys2Proof/Machine/Logic.lean ====
section
/-!
DEFINITION. The logical, bit-test, shift and bit-manipulation instructions (43_logical_shift.md).
-/

namespace Sys2Proof.Machine

/-- A logical operation on A: the operand's byte, A and its N and Z (R200 to R202). -/
def logical (op : Byte → Byte → Byte) (m : Byte × State) : State := loadInto setA (op m.2.a m.1, m.2)

/-- AND, R200. -/
def execAnd (src : Src) (s : State) : Result :=
  .next (logical (· &&& ·) (load src s))

/-- ORA, R201. -/
def execOra (src : Src) (s : State) : Result :=
  .next (logical (· ||| ·) (load src s))

/-- EOR, R202. -/
def execEor (src : Src) (s : State) : Result :=
  .next (logical (· ^^^ ·) (load src s))

/-- BIT in its memory modes, R203. -/
def execBit (src : Mem) (s : State) : Result :=
  .next { (loadMem src s).2 with p := bitFlags s.a (loadMem src s).1 s.p }

/-- BIT #, R204. -/
def execBitImmediate (v : Byte) (s : State) : Result :=
  .next { s with p := testFlags s.a v s.p }

/-- ASL, R205. -/
def execAsl (dst : Rmw) (s : State) : Result :=
  .next (modifyRmw aslOp dst s)

/-- LSR, R206. -/
def execLsr (dst : Rmw) (s : State) : Result :=
  .next (modifyRmw lsrOp dst s)

/-- ROL, R207. -/
def execRol (dst : Rmw) (s : State) : Result :=
  .next (modifyRmw rolOp dst s)

/-- ROR, R208. -/
def execRor (dst : Rmw) (s : State) : Result :=
  .next (modifyRmw rorOp dst s)

/-- TSB, R209. -/
def execTsb (dst : Mem) (s : State) : Result :=
  .next (modifyMem (tsbOp s.a) dst s)

/-- TRB, R210. -/
def execTrb (dst : Mem) (s : State) : Result :=
  .next (modifyMem (trbOp s.a) dst s)

/-- RMB0, R211. -/
def execRmb0 (z : Byte) (s : State) : Result :=
  .next (modifyMem (rmbOp 0) (.zeroPage z) s)

/-- RMB1, R211. -/
def execRmb1 (z : Byte) (s : State) : Result :=
  .next (modifyMem (rmbOp 1) (.zeroPage z) s)

/-- RMB2, R211. -/
def execRmb2 (z : Byte) (s : State) : Result :=
  .next (modifyMem (rmbOp 2) (.zeroPage z) s)

/-- RMB3, R211. -/
def execRmb3 (z : Byte) (s : State) : Result :=
  .next (modifyMem (rmbOp 3) (.zeroPage z) s)

/-- RMB4, R211. -/
def execRmb4 (z : Byte) (s : State) : Result :=
  .next (modifyMem (rmbOp 4) (.zeroPage z) s)

/-- RMB5, R211. -/
def execRmb5 (z : Byte) (s : State) : Result :=
  .next (modifyMem (rmbOp 5) (.zeroPage z) s)

/-- RMB6, R211. -/
def execRmb6 (z : Byte) (s : State) : Result :=
  .next (modifyMem (rmbOp 6) (.zeroPage z) s)

/-- RMB7, R211. -/
def execRmb7 (z : Byte) (s : State) : Result :=
  .next (modifyMem (rmbOp 7) (.zeroPage z) s)

/-- SMB0, R212. -/
def execSmb0 (z : Byte) (s : State) : Result :=
  .next (modifyMem (smbOp 0) (.zeroPage z) s)

/-- SMB1, R212. -/
def execSmb1 (z : Byte) (s : State) : Result :=
  .next (modifyMem (smbOp 1) (.zeroPage z) s)

/-- SMB2, R212. -/
def execSmb2 (z : Byte) (s : State) : Result :=
  .next (modifyMem (smbOp 2) (.zeroPage z) s)

/-- SMB3, R212. -/
def execSmb3 (z : Byte) (s : State) : Result :=
  .next (modifyMem (smbOp 3) (.zeroPage z) s)

/-- SMB4, R212. -/
def execSmb4 (z : Byte) (s : State) : Result :=
  .next (modifyMem (smbOp 4) (.zeroPage z) s)

/-- SMB5, R212. -/
def execSmb5 (z : Byte) (s : State) : Result :=
  .next (modifyMem (smbOp 5) (.zeroPage z) s)

/-- SMB6, R212. -/
def execSmb6 (z : Byte) (s : State) : Result :=
  .next (modifyMem (smbOp 6) (.zeroPage z) s)

/-- SMB7, R212. -/
def execSmb7 (z : Byte) (s : State) : Result :=
  .next (modifyMem (smbOp 7) (.zeroPage z) s)


end Sys2Proof.Machine
end

