-- ==== Sys2Proof/Machine/System.lean ====
section
/-!
DEFINITION. The system, flag, wait and fault-slot instructions (45_system.md).
-/

namespace Sys2Proof.Machine

/-- BRK, R260: the padding byte is skipped and not read; bit 4 of the pushed status is 1. The stop-on-BRK check is the fetch
boundary's (R323). -/
def execBrk (s : State) : Result :=
  .next (enterException true s.cfg.irqVec { s with pc := s.pc + 1 })

/-- RTI, R261. -/
def execRti (s : State) : Result :=
  .next (returnFromException s)

/-- CLC, R262. -/
def execClc (s : State) : Result :=
  .next { s with p := { s.p with c := false } }

/-- SEC, R263. -/
def execSec (s : State) : Result :=
  .next { s with p := { s.p with c := true } }

/-- CLI, R264. -/
def execCli (s : State) : Result :=
  .next { s with p := { s.p with i := false } }

/-- SEI, R265. -/
def execSei (s : State) : Result :=
  .next { s with p := { s.p with i := true } }

/-- CLD, R266. -/
def execCld (s : State) : Result :=
  .next { s with p := { s.p with d := false } }

/-- SED, R267. -/
def execSed (s : State) : Result :=
  .next { s with p := { s.p with d := true } }

/-- CLV, R268. -/
def execClv (s : State) : Result :=
  .next { s with p := { s.p with v := false } }

/-- NOP, R269. -/
def execNop (s : State) : Result :=
  .next s

/-- WAI, R270: from the next clock call the Waiting rule R316 applies. -/
def execWai (s : State) : Result :=
  .next { s with runState := .waiting }

/-- STP, R271: from the next clock call the Stopped rule R317 applies. -/
def execStp (s : State) : Result :=
  .next { s with runState := .stopped }

/-- A JAM slot, R275: the fetch boundary runs this with PC still at the opcode, and it raises InvalidOpcode; nothing else changes
(R320, log entry 5). -/
def execJam (opcode : Byte) (s : State) : Result :=
  .next (raise (.invalidOpcode opcode s.pc) s)

/-- A NotImplemented slot, R276: as for a JAM slot, with its own kind. -/
def execNotImplemented (opcode : Byte) (s : State) : Result :=
  .next (raise (.notImplemented opcode s.pc) s)


end Sys2Proof.Machine
end

