-- ==== Sys2Proof/Machine/TransferStack.lean ====
section
/-!
DEFINITION. The register transfer and stack instructions (41_transfer_stack.md).
-/

namespace Sys2Proof.Machine

/-- TAX, R150. -/
def execTax (s : State) : Result :=
  .next (loadInto setX (s.a, s))

/-- TAY, R151. -/
def execTay (s : State) : Result :=
  .next (loadInto setY (s.a, s))

/-- TXA, R152. -/
def execTxa (s : State) : Result :=
  .next (loadInto setA (s.x, s))

/-- TYA, R153. -/
def execTya (s : State) : Result :=
  .next (loadInto setA (s.y, s))

/-- TSX, R154. -/
def execTsx (s : State) : Result :=
  .next (loadInto setX (s.sp, s))

/-- TXS, R155: the only transfer that writes no flag. -/
def execTxs (s : State) : Result :=
  .next { s with sp := s.x }

/-- PHA, R156. -/
def execPha (s : State) : Result :=
  .next (push s.a s)

/-- PHP, R157: bits 5 and 4 of the pushed byte are 1. -/
def execPhp (s : State) : Result :=
  .next (push (serialize s.p true) s)

/-- PLA, R158. -/
def execPla (s : State) : Result :=
  .next (loadInto setA (pull s))

/-- PLP, R159: B takes bit 4 verbatim. -/
def execPlp (s : State) : Result :=
  .next { (pull s).2 with p := deserialize (pull s).1 }

/-- PHX, R160. -/
def execPhx (s : State) : Result :=
  .next (push s.x s)

/-- PHY, R161. -/
def execPhy (s : State) : Result :=
  .next (push s.y s)

/-- PLX, R162. -/
def execPlx (s : State) : Result :=
  .next (loadInto setX (pull s))

/-- PLY, R163. -/
def execPly (s : State) : Result :=
  .next (loadInto setY (pull s))


end Sys2Proof.Machine
end

