-- ==== Sys2Proof/Machine/Dispatch.lean ====
section
/-!
DEFINITION. The dispatch: one arm per instruction, each one call of its meaning. `exec i s` runs inside the fetch-boundary call
(40_load_store.md R130): `s` has PC past the instruction's bytes and its cycles charged (a fault slot has neither, R320).
-/

namespace Sys2Proof.Machine

def exec (i : Instr) (s : State) : Host.Outcome State Fault Refusal :=
  match i with
  | .lda src => Sys2Proof.Machine.execLda src s
  | .ldx src => Sys2Proof.Machine.execLdx src s
  | .ldy src => Sys2Proof.Machine.execLdy src s
  | .sta dst => Sys2Proof.Machine.execSta dst s
  | .stx dst => Sys2Proof.Machine.execStx dst s
  | .sty dst => Sys2Proof.Machine.execSty dst s
  | .stz dst => Sys2Proof.Machine.execStz dst s
  | .tax => Sys2Proof.Machine.execTax s
  | .tay => Sys2Proof.Machine.execTay s
  | .txa => Sys2Proof.Machine.execTxa s
  | .tya => Sys2Proof.Machine.execTya s
  | .tsx => Sys2Proof.Machine.execTsx s
  | .txs => Sys2Proof.Machine.execTxs s
  | .pha => Sys2Proof.Machine.execPha s
  | .php => Sys2Proof.Machine.execPhp s
  | .pla => Sys2Proof.Machine.execPla s
  | .plp => Sys2Proof.Machine.execPlp s
  | .phx => Sys2Proof.Machine.execPhx s
  | .phy => Sys2Proof.Machine.execPhy s
  | .plx => Sys2Proof.Machine.execPlx s
  | .ply => Sys2Proof.Machine.execPly s
  | .adc src => Sys2Proof.Machine.execAdc src s
  | .sbc src => Sys2Proof.Machine.execSbc src s
  | .cmp src => Sys2Proof.Machine.execCmp src s
  | .cpx src => Sys2Proof.Machine.execCpx src s
  | .cpy src => Sys2Proof.Machine.execCpy src s
  | .inc dst => Sys2Proof.Machine.execInc dst s
  | .dec dst => Sys2Proof.Machine.execDec dst s
  | .inx => Sys2Proof.Machine.execInx s
  | .iny => Sys2Proof.Machine.execIny s
  | .dex => Sys2Proof.Machine.execDex s
  | .dey => Sys2Proof.Machine.execDey s
  | .incA => Sys2Proof.Machine.execIncA s
  | .decA => Sys2Proof.Machine.execDecA s
  | .and src => Sys2Proof.Machine.execAnd src s
  | .ora src => Sys2Proof.Machine.execOra src s
  | .eor src => Sys2Proof.Machine.execEor src s
  | .bit src => Sys2Proof.Machine.execBit src s
  | .bitImmediate v => Sys2Proof.Machine.execBitImmediate v s
  | .asl dst => Sys2Proof.Machine.execAsl dst s
  | .lsr dst => Sys2Proof.Machine.execLsr dst s
  | .rol dst => Sys2Proof.Machine.execRol dst s
  | .ror dst => Sys2Proof.Machine.execRor dst s
  | .tsb dst => Sys2Proof.Machine.execTsb dst s
  | .trb dst => Sys2Proof.Machine.execTrb dst s
  | .rmb0 z => Sys2Proof.Machine.execRmb0 z s
  | .rmb1 z => Sys2Proof.Machine.execRmb1 z s
  | .rmb2 z => Sys2Proof.Machine.execRmb2 z s
  | .rmb3 z => Sys2Proof.Machine.execRmb3 z s
  | .rmb4 z => Sys2Proof.Machine.execRmb4 z s
  | .rmb5 z => Sys2Proof.Machine.execRmb5 z s
  | .rmb6 z => Sys2Proof.Machine.execRmb6 z s
  | .rmb7 z => Sys2Proof.Machine.execRmb7 z s
  | .smb0 z => Sys2Proof.Machine.execSmb0 z s
  | .smb1 z => Sys2Proof.Machine.execSmb1 z s
  | .smb2 z => Sys2Proof.Machine.execSmb2 z s
  | .smb3 z => Sys2Proof.Machine.execSmb3 z s
  | .smb4 z => Sys2Proof.Machine.execSmb4 z s
  | .smb5 z => Sys2Proof.Machine.execSmb5 z s
  | .smb6 z => Sys2Proof.Machine.execSmb6 z s
  | .smb7 z => Sys2Proof.Machine.execSmb7 z s
  | .bpl d => Sys2Proof.Machine.execBpl d s
  | .bmi d => Sys2Proof.Machine.execBmi d s
  | .bvc d => Sys2Proof.Machine.execBvc d s
  | .bvs d => Sys2Proof.Machine.execBvs d s
  | .bcc d => Sys2Proof.Machine.execBcc d s
  | .bcs d => Sys2Proof.Machine.execBcs d s
  | .bne d => Sys2Proof.Machine.execBne d s
  | .beq d => Sys2Proof.Machine.execBeq d s
  | .bra d => Sys2Proof.Machine.execBra d s
  | .bbr0 z d => Sys2Proof.Machine.execBbr0 z d s
  | .bbr1 z d => Sys2Proof.Machine.execBbr1 z d s
  | .bbr2 z d => Sys2Proof.Machine.execBbr2 z d s
  | .bbr3 z d => Sys2Proof.Machine.execBbr3 z d s
  | .bbr4 z d => Sys2Proof.Machine.execBbr4 z d s
  | .bbr5 z d => Sys2Proof.Machine.execBbr5 z d s
  | .bbr6 z d => Sys2Proof.Machine.execBbr6 z d s
  | .bbr7 z d => Sys2Proof.Machine.execBbr7 z d s
  | .bbs0 z d => Sys2Proof.Machine.execBbs0 z d s
  | .bbs1 z d => Sys2Proof.Machine.execBbs1 z d s
  | .bbs2 z d => Sys2Proof.Machine.execBbs2 z d s
  | .bbs3 z d => Sys2Proof.Machine.execBbs3 z d s
  | .bbs4 z d => Sys2Proof.Machine.execBbs4 z d s
  | .bbs5 z d => Sys2Proof.Machine.execBbs5 z d s
  | .bbs6 z d => Sys2Proof.Machine.execBbs6 z d s
  | .bbs7 z d => Sys2Proof.Machine.execBbs7 z d s
  | .jmp target => Sys2Proof.Machine.execJmp target s
  | .jmpIndirect pointer => Sys2Proof.Machine.execJmpIndirect pointer s
  | .jsr target => Sys2Proof.Machine.execJsr target s
  | .rts => Sys2Proof.Machine.execRts s
  | .brk => Sys2Proof.Machine.execBrk s
  | .rti => Sys2Proof.Machine.execRti s
  | .clc => Sys2Proof.Machine.execClc s
  | .sec => Sys2Proof.Machine.execSec s
  | .cli => Sys2Proof.Machine.execCli s
  | .sei => Sys2Proof.Machine.execSei s
  | .cld => Sys2Proof.Machine.execCld s
  | .sed => Sys2Proof.Machine.execSed s
  | .clv => Sys2Proof.Machine.execClv s
  | .nop => Sys2Proof.Machine.execNop s
  | .wai => Sys2Proof.Machine.execWai s
  | .stp => Sys2Proof.Machine.execStp s
  | .jam opcode => Sys2Proof.Machine.execJam opcode s
  | .notImplemented opcode => Sys2Proof.Machine.execNotImplemented opcode s

end Sys2Proof.Machine
end

