-- ==== Sys2Proof/Machine/Fetch.lean ====
section
/-!
DEFINITION. The fetch boundary (60_exceptions.md R301 step 2): reading the opcode with the breakpoint hook (R340), the fault checks (R320,
R323), the operand bytes (30_encoding.md R94) and the run of the decoded instruction.
-/

namespace Sys2Proof.Machine

/-- A breakpoint handler's answer `(pc2, op2)`, R340: three draws of the host, PC low, PC high, opcode (log entry 12). -/
def hookAnswer (io : HostIO) : (Addr × Byte) × HostIO :=
  let lo := draw io
  let hi := draw lo.2
  let op := draw hi.2
  ((word hi.1 lo.1, op.1), op.2)

/-- What the opcode read ends in: an opcode to dispatch, or the redirect limit with the last opcode read. -/
inductive Fetched
  | opcode (op : Byte) (s : State)
  | redirectLimit (op : Byte) (s : State)

/-- The loop of R301: read the opcode at PC; where a handler is registered there, its answer either moves PC and repeats the read,
`left` times at most, or substitutes the opcode. -/
def fetchOpcode (left : Nat) (s : State) : Fetched :=
  let op := memRead s s.pc
  if s.cfg.breakpoints.contains s.pc then
    let answer := hookAnswer op.2.io
    let s' := { op.2 with io := answer.2 }
    if answer.1.1 = s.pc then .opcode answer.1.2 s'
    else
      match left with
      | 0 => .redirectLimit op.1 s'
      | left + 1 => fetchOpcode left { s' with pc := answer.1.1 }
  else .opcode op.1 op.2

/-- The operand bytes, one `fetch()` each in address order, R94; a byte the mode does not have is not read and stands as 0. -/
def fetchOperands (count : Nat) (s : State) : (Byte × Byte) × State :=
  match count with
  | 0 => ((0, 0), s)
  | 1 => (((fetch s).1, 0), (fetch s).2)
  | _ => (((fetch s).1, (fetch (fetch s).2).1), (fetch (fetch s).2).2)

/-- Step 3 of R301: the cycle of the fetch-boundary call itself. -/
def endCycle (s : State) : State :=
  { s with instrCycles := s.instrCycles - 1, totalCycles := s.totalCycles + 1 }

/-- Go on from a next state; a fault or a refusal ends it. -/
def andThen (r : Result) (f : State → State) : Result :=
  match r with
  | .next s => .next (f s)
  | .fault e => .fault e
  | .refused e => .refused e

/-- PC past the opcode and the base cycles charged, R301. -/
def charge (op : Byte) (s : State) : State :=
  { s with pc := s.pc + 1, instrCycles := baseCycles s.cfg.variant op }

/-- From the resolved opcode on, R301: a fault slot and stop-on-BRK are raised at once, with PC at the opcode; otherwise the operand
bytes are read and the instruction runs. -/
def dispatch (op : Byte) (s : State) : Result :=
  if isFaultSlot s.cfg.variant op then exec (faultSlot s.cfg.variant op) s
  else if s.cfg.brkIsStop && op == 0x00 then .next (raise (.brkStop op s.pc) s)
  else
    let o := fetchOperands (operandCount s.cfg.variant op) (charge op s)
    andThen (exec (assemble s.cfg.variant op o.1.1 o.1.2) o.2) endCycle

/-- A fetch boundary, R301 step 2: an eligible interrupt is serviced, or the next instruction is fetched and run. -/
def fetchBoundary (s : State) : Result :=
  match eligible s with
  | some kind => .next (endCycle (serviceInterrupt kind s))
  | none =>
    match fetchOpcode s.cfg.maxRedirects s with
    | .opcode op s' => dispatch op s'
    | .redirectLimit op s' => .next (raise (.breakpointRedirectLimit op s'.pc) s')

end Sys2Proof.Machine
end

