-- ==== Sys2Proof/Machine/Clock.lean ====
section
/-!
DEFINITION. The CPU's clock in each run state (60_exceptions.md R300, R301, R316, R317) and one Bus `clock()` call over every registered
device (20_memory.md R57).
-/

namespace Sys2Proof.Machine

/-- The Normal clock, R301: a time-passing cycle, or a fetch boundary. -/
def normalClock (s : State) : Result :=
  if s.instrCycles = 0 then fetchBoundary s else .next (endCycle s)

/-- Is any request latched? R316, R317. -/
def requested (s : State) : Bool := s.nmiPending.isSome || s.irqPending.isSome

/-- The Waiting clock, R316: any latched request wakes the CPU, and the latch is kept. -/
def waitingClock (s : State) : State :=
  if requested s then { s with runState := .normal, instrCycles := 1 } else s

/-- The Stopped clock, R317: a latched request restarts the CPU at the RESET vector and is consumed. -/
def stoppedClock (s : State) : State :=
  if requested s then
    let w := readWord s s.cfg.resetVec
    { w.2 with pc := w.1, runState := .normal, instrCycles := 1, nmiPending := none, irqPending := none }
  else s

/-- `cpu.clock()`, R300. -/
def cpuClock (s : State) : Result :=
  match s.runState with
  | .normal => normalClock s
  | .waiting => .next (waitingClock s)
  | .stopped => .next (stoppedClock s)

/-- One Bus access that a device makes on its own, R51: a read or a write of a drawn byte at a drawn address (log entry 15). -/
def ownAccess (s : State) : State :=
  let write := draw s.io
  let a := drawWord write.2
  let v := draw a.2
  let s' := { s with io := v.2 }
  if write.1.getLsbD 0 then memWrite s' a.1 v.1 else (memRead s' a.1).2

/-- `n` such accesses. -/
def ownAccesses (n : Nat) (s : State) : State :=
  match n with
  | 0 => s
  | n + 1 => ownAccesses n (ownAccess s)

/-- The Bus accesses a device makes in its `clock()`: a drawn number of them where the spec does not give the device (R51, R308), and
none by the timer and the others. -/
def clockAccesses (d : Device) (s : State) : State :=
  match d with
  | .other _ _ => ownAccesses (draw s.io).1.toNat { s with io := (draw s.io).2 }
  | _ => s

/-- `clock()` of the device at place `k`, which is `d`, R57 and R59. -/
def clockOther (k : Nat) (d : Device) (s : State) : State :=
  let r := deviceClock d s.io
  clockAccesses d
    (afterAccess { devices := s.devices.set k r.device, io := r.io, requests := requestsFrom k r.requests } s)

/-- `clock()` of whatever is at place `k`, R57. -/
def clockDevice (k : Nat) (s : State) : Result :=
  match s.devices[k]? with
  | some .cpu => cpuClock s
  | some d => .next (clockOther k d s)
  | none => .next s

/-- The devices at the places listed, in order, R57. A fault raised on the way ends the call: the devices after the CPU are not
clocked (R320). -/
def clockDevices (places : List Nat) (s : State) : Result :=
  match places with
  | [] => .next s
  | k :: rest =>
    match clockDevice k s with
    | .next s' => if s'.fault.isSome then .next s' else clockDevices rest s'
    | .fault e => .fault e
    | .refused e => .refused e

/-- A configuration that has a run: every device range is valid (R52, R321), there is one CPU (R319), and `RESET_CYCLES` is at
least 1 (R7). -/
def configOk (s : State) : Bool :=
  s.devices.all validRange && s.devices.count .cpu == 1 && decide (1 ≤ s.cfg.resetCycles)

/-- One Bus `clock()` call, R57, and the count of such calls (R351). A faulted machine has no step (R325): its outcome is the recorded
fault. A wrong configuration has none either (R321). -/
def clockCall (s : State) : Result :=
  if configOk s then
    match s.fault with
    | some f => .fault f
    | none => clockDevices (List.range s.devices.length) { s with clockCalls := s.clockCalls + 1 }
  else .refused .configurationError

/-- Put the bytes of an instruction where the next fetch reads them, and set what keeps that fetch from being the next thing the CPU
does (log entry 8): the CPU at a fetch boundary with no fault and no request latched, no breakpoint at PC, no stop on an opcode
$00, and a variant under which the opcode is the table's instruction. PC to PC + 2 must be RAM. -/
def placeInstruction (bytes : List Byte) (s : State) : State :=
  let op := bytes.getD 0 0
  let b1 := bytes.getD 1 0
  let b2 := bytes.getD 2 0
  let v := s.cfg.variant
  let cfg :=
    { s.cfg with
      variant := if assemble v op b1 b2 = assemble (tableVariant op) op b1 b2 then v else tableVariant op
      breakpoints := s.cfg.breakpoints.filter (fun a => a != s.pc)
      brkIsStop := s.cfg.brkIsStop && op != 0 }
  let s' :=
    { s with
      cfg := cfg, instrCycles := 0, runState := .normal, fault := none,
      nmiPending := none, irqPending := none }
  memWrite (memWrite (memWrite s' s.pc op) (s.pc + 1) b1) (s.pc + 2) b2

end Sys2Proof.Machine
end

