-- ==== Sys2Proof/Machine/Step.lean ====
section
/-!
DEFINITION. The step: one Bus `clock()` call (20_memory.md R57, 60_exceptions.md R300, R301), and the placing of an instruction for it.
-/

namespace Sys2Proof.Machine

/-- One step of the machine is one Bus `clock()` call (R57); its definition is Machine/Clock.lean's `clockCall`. -/
def step (s : State) : Host.Outcome State Fault Refusal := clockCall s

/-- The state whose very next step fetches and runs the instruction of a table word (log entry 8). -/
def State.withFetchWord (s : State) (nbits w : Nat) : State := placeInstruction (tableBytes nbits w) s

end Sys2Proof.Machine
end

