-- ==== Sys2Proof/Machine/Reset.lean ====
section
/-!
DEFINITION. The Bus `reset()` call (20_memory.md R58, 70_reset_and_hazards.md R370, R372, R373), which the host may make between clock calls.
-/

namespace Sys2Proof.Machine

/-- `MemRead(a, 1)` during a reset, R55 and R372: the byte and the devices as in any read, but no device emits an event or requests an
interrupt, so all that reaches the host's side is the draw of the byte, where it is one. -/
def resetRead (s : State) (a : Addr) : Byte × State :=
  let r := busRead s.devices s.io a
  (r.1,
    { s with
      devices := r.2.devices
      io :=
        match s.devices.find? (fun d => deviceContains d a) with
        | some d => (registerGet d a s.io).2
        | none => s.io })

/-- `ReadWord(a)` during a reset, R62 and R370: two Bus reads, low byte first. -/
def resetReadWord (s : State) (a : Addr) : Addr × State :=
  let lo := resetRead s a
  let hi := resetRead lo.2 (a + 1)
  (word hi.1 lo.1, hi.2)

/-- The CPU's `reset()`, R370: the RESET vector is read through the Bus, low byte first; A, X and Y are three draws. -/
def cpuReset (s : State) : State :=
  let w := resetReadWord s s.cfg.resetVec
  let a := draw w.2.io
  let x := draw a.2
  let y := draw x.2
  { w.2 with
    a := a.1, x := x.1, y := y.1, io := y.2
    sp := 0xFD
    p := Status.reset
    pc := w.1
    instrCycles := s.cfg.resetCycles
    totalCycles := 0
    nmiPending := none
    irqPending := none
    runState := .normal
    fault := none }

/-- `reset()` of the device at place `k`, R58. -/
def resetDevice (k : Nat) (s : State) : State :=
  match s.devices[k]? with
  | some .cpu => cpuReset s
  | some d => { s with devices := s.devices.set k (deviceReset d s.io).1, io := (deviceReset d s.io).2 }
  | none => s

/-- The devices at the places listed, in order. -/
def resetDevices (places : List Nat) (s : State) : State :=
  match places with
  | [] => s
  | k :: rest => resetDevices rest (resetDevice k s)

/-- The Bus `reset()`, R58: it starts a new run (R370), so the count of clock calls starts again; the event history is kept
(log entry 13). -/
def busReset (s : State) : State :=
  { resetDevices (List.range s.devices.length) s with clockCalls := 0 }

end Sys2Proof.Machine
end

