-- ==== Sys2Proof/Machine/HostCalls.lean ====
section
/-!
DEFINITION. What the host may do between clock calls (60_exceptions.md R341, R345). None of it is a step; a claim over every state covers
whatever the host did before it.
-/

namespace Sys2Proof.Machine

/-- The host's moves between calls, R341 and R345. -/
inductive HostAction
  | pokeA (v : Byte)
  | pokeX (v : Byte)
  | pokeY (v : Byte)
  | pokeSP (v : Byte)
  | pokePC (v : Addr)
  /-- any of the seven flags; the host gives the others back as they are -/
  | pokeFlags (p : Status)
  | request (kind : InterruptKind)
  | busRead (a : Addr)
  | busWrite (a : Addr) (v : Byte)
  | reset
  deriving DecidableEq, Repr

/-- The state after a move of the host. -/
def hostAction (h : HostAction) (s : State) : State :=
  match h with
  | .pokeA v => { s with a := v }
  | .pokeX v => { s with x := v }
  | .pokeY v => { s with y := v }
  | .pokeSP v => { s with sp := v }
  | .pokePC v => { s with pc := v }
  | .pokeFlags p => { s with p := p }
  | .request kind => Machine.request kind .host s
  | .busRead a => (memRead s a).2
  | .busWrite a v => memWrite s a v
  | .reset => busReset s

/-- The byte a host's Bus read gives, R341. -/
def hostReadValue (s : State) (a : Addr) : Byte := (memRead s a).1

end Sys2Proof.Machine
end

