-- ==== Sys2Proof/Safety.lean ====
section
/-!
DEFINITION. What counts as a safe run, and the end of a run (60_exceptions.md R320, R325, R350).
-/

namespace Sys2Proof

open Machine

/-- No fatal error is recorded. A state with one recorded has failed (R350), and its only outcome is that fault (R325). -/
def Safe (s : State) : Prop := s.fault = none

/-- The CPU is at a fetch boundary: the only moment an opcode may be fetched (10_state.md R29). -/
def AtBoundary (s : State) : Prop := s.runState = .normal ∧ s.instrCycles = 0 ∧ s.fault = none

/-- `u` is what the CPU's `clock()` finds in the Bus `clock()` call made on `s`: the devices registered before the CPU have been
clocked, and may have requested an interrupt in this very call (R57, R309). -/
def AtCpuClock (s u : State) : Prop :=
  configOk s = true ∧ s.fault = none ∧
    clockDevices (List.range (s.devices.idxOf .cpu)) { s with clockCalls := s.clockCalls + 1 } = .next u

/-- A run launched with `END_ADDR` ends in the call made on `s`, R350: the CPU's `clock()` in that call is a fetch boundary at that
address with no eligible interrupt. What it then reads at PC, and what the rest of the call does, are after the end. -/
def Ended (endAddr : Addr) (s : State) : Prop :=
  ∃ u, AtCpuClock s u ∧ AtBoundary u ∧ u.pc = endAddr ∧ eligible u = none

/-- `t` comes from `s` by `n` clock calls. -/
def Runs : Nat → State → State → Prop
  | 0, s, t => s = t
  | n + 1, s, t => ∃ u, step s = .next u ∧ Runs n u t

/-- A run from `s` that ends at `endAddr` without a fault, R350: at the first such boundary. A state with a fault recorded has no step,
so a run that fails never gets there. -/
def Completes (endAddr : Addr) (s : State) : Prop :=
  ∃ n t, Runs n s t ∧ Ended endAddr t ∧ ∀ m u, m < n → Runs m s u → ¬Ended endAddr u

end Sys2Proof
end

