-- ==== Sys2Proof/Certificates/Slice0/Obligations.lean ====
section
/-!
DEFINITION. The statements about the machine, each from the numbered rules of spec/ its docstring names, and the few predicates they are
written with (namespace Claims).
-/

namespace Sys2Proof.Claims

open Machine

/-- The CPU's registers and flags, all of them: what a statement says of a next state `t`. -/
def Registers (t : State) (a x y sp : Byte) (pc : Addr) (p : Status) : Prop :=
  t.a = a ∧ t.x = x ∧ t.y = y ∧ t.sp = sp ∧ t.pc = pc ∧ t.p = p

/-- The engine's own fields, which no dispatched instruction but WAI and STP (`runState`) touches (R29, R30, R32, R41). The two latches
are not among them: a device that an instruction reads or writes may fill one (R73), so they stand in `SameSide`. -/
def SameEngine (s t : State) : Prop :=
  t.cfg = s.cfg ∧ t.instrCycles = s.instrCycles ∧ t.totalCycles = s.totalCycles ∧
    t.runState = s.runState ∧ t.fault = s.fault ∧ t.clockCalls = s.clockCalls

/-- All that a Bus access can change is in `t` as it is in `u`: the devices, the host's side and the two latches (R59). -/
def SameSide (u t : State) : Prop :=
  t.devices = u.devices ∧ t.io = u.io ∧ t.nmiPending = u.nmiPending ∧ t.irqPending = u.irqPending

/-- Device `e` is device `d` after reads at most: as before, but that another device (R308) has answered some `get` calls. -/
def OnlyRead (d e : Device) : Prop :=
  e = d ∨ ∃ range calls gets, d = .other range calls ∧ e = .other range (gets ++ calls) ∧ ∀ c ∈ gets, ∃ a, c = .get a

/-- Nothing is stored: every byte of memory reads as before, no device is written, and no device of R330 to R339 emits an event. -/
def StoresNothing (s t : State) : Prop :=
  (∀ a, memoryByte t.devices a = memoryByte s.devices a) ∧
    t.devices.length = s.devices.length ∧
    (∀ (k : Nat) (d : Device), s.devices[k]? = some d → ∃ e, t.devices[k]? = some e ∧ OnlyRead d e) ∧
    ((∀ range calls, .other range calls ∉ s.devices) → t.io.events = s.io.events)

/-- Nothing is stored, and the devices, the host's side and the latches are those of `u`, the state after the operand's reads: no
device is read but by them (R71, R96). -/
def ReadsOnly (u s t : State) : Prop :=
  (∀ a, memoryByte t.devices a = memoryByte s.devices a) ∧ SameSide u t

/-- `a` is answered by RAM (R55). -/
def RamAt (devices : List Device) (a : Addr) : Prop :=
  ∃ lo hi cells, devices.find? (fun d => deviceContains d a) = some (.ram lo hi cells)

/-- One byte `v` is stored at `ea` and nowhere else (R56), where `u` is the state after the operand's reads: every other byte of memory
reads as before; RAM that answers `ea` holds `v`; every device whose range does not hold `ea` is as it was in `u`; and the devices,
the host's side and the latches are those of `u` after that one Bus write. -/
def StoresAt (ea : Addr) (v : Byte) (s u t : State) : Prop :=
  (∀ a, a ≠ ea → memoryByte t.devices a = memoryByte s.devices a) ∧
    (RamAt s.devices ea → memoryByte t.devices ea = some v) ∧
    t.devices.length = s.devices.length ∧
    (∀ (k : Nat) (d : Device), u.devices[k]? = some d → deviceContains d ea = false → t.devices[k]? = some d) ∧
    SameSide (memWrite u ea v) t

/-- A call that a Bus access makes on a device. -/
def IsAccess (c : DeviceCall) : Prop := (∃ a, c = .get a) ∨ ∃ a v, c = .set a v

/-- A latch after Bus accesses that made the devices `ds` into `es`: as it was, or holding the handle of a device of R308 that was read
or written among them, as the calls it has recorded since show. -/
def LatchFrom (ds es : List Device) (old new : Option Handle) : Prop :=
  new = old ∨ ∃ k range calls more, ds[k]? = some (.other range calls) ∧ es[k]? = some (.other range (more ++ calls)) ∧
    (∃ c ∈ more, IsAccess c) ∧ new = some (.device k)

/-- `s` after a call on another device (R308), which stands between `before` and `after` and has then answered `calls`: the call drew
the request byte `asked`, emitted nothing and made no Bus access of its own; `rest` are the answers left to the host. -/
def afterOtherCall (s : State) (before after : List Device) (range : Option (Addr × Addr)) (calls : List DeviceCall)
    (asked : Byte) (rest : List Byte) : State :=
  { s with
    devices := before ++ .other range calls :: after
    io := { s.io with answers := rest }
    nmiPending := if asked.getLsbD 0 = true then some (.device before.length) else s.nmiPending
    irqPending := if asked.getLsbD 1 = true then some (.device before.length) else s.irqPending }

/-- The cycles column of R98: the opcodes of each base cycle count. -/
def cyclesNmos : List (Nat × List Byte) :=
  [(2, [0x09, 0x0A, 0x10, 0x18, 0x29, 0x2A, 0x30, 0x38, 0x49, 0x4A, 0x50, 0x58, 0x69, 0x6A, 0x70, 0x78, 0x88, 0x8A,
      0x90, 0x98, 0x9A, 0xA0, 0xA2, 0xA8, 0xA9, 0xAA, 0xB0, 0xB8, 0xBA, 0xC0, 0xC8, 0xC9, 0xCA, 0xD0, 0xD8, 0xE0,
      0xE8, 0xE9, 0xEA, 0xF0, 0xF8]),
    (3, [0x05, 0x08, 0x24, 0x25, 0x45, 0x48, 0x4C, 0x65, 0x84, 0x85, 0x86, 0xA4, 0xA5, 0xA6, 0xC4, 0xC5, 0xE4, 0xE5]),
    (4, [0x0D, 0x15, 0x19, 0x1D, 0x28, 0x2C, 0x2D, 0x35, 0x39, 0x3D, 0x4D, 0x55, 0x59, 0x5D, 0x68, 0x6D, 0x75, 0x79,
      0x7D, 0x8C, 0x8D, 0x8E, 0x94, 0x95, 0x96, 0xAC, 0xAD, 0xAE, 0xB4, 0xB5, 0xB6, 0xB9, 0xBC, 0xBD, 0xBE, 0xCC,
      0xCD, 0xD5, 0xD9, 0xDD, 0xEC, 0xED, 0xF5, 0xF9, 0xFD]),
    (5, [0x06, 0x11, 0x26, 0x31, 0x46, 0x51, 0x66, 0x6C, 0x71, 0x99, 0x9D, 0xB1, 0xC6, 0xD1, 0xE6, 0xF1]),
    (6, [0x01, 0x0E, 0x16, 0x20, 0x21, 0x2E, 0x36, 0x40, 0x41, 0x4E, 0x56, 0x60, 0x61, 0x6E, 0x76, 0x81, 0x91, 0xA1,
      0xC1, 0xCE, 0xD6, 0xE1, 0xEE, 0xF6]),
    (7, [0x00, 0x1E, 0x3E, 0x5E, 0x7E, 0xDE, 0xFE])]

/-- The cycles column of R99: the opcodes that only the CMOS variant has. -/
def cyclesCmos : List (Nat × List Byte) :=
  [(2, [0x1A, 0x3A, 0x89]),
    (3, [0x5A, 0x64, 0x80, 0xCB, 0xDA, 0xDB]),
    (4, [0x74, 0x7A, 0x9C, 0xFA]),
    (5, [0x04, 0x07, 0x0F, 0x14, 0x17, 0x1F, 0x27, 0x2F, 0x37, 0x3F, 0x47, 0x4F, 0x57, 0x5F, 0x67, 0x6F, 0x77, 0x7F,
      0x87, 0x8F, 0x97, 0x9E, 0x9F, 0xA7, 0xAF, 0xB7, 0xBF, 0xC7, 0xCF, 0xD7, 0xDF, 0xE7, 0xEF, 0xF7, 0xFF]),
    (6, [0x0C, 0x1C])]

/-- The cycles column of a variant, R98 and R99. -/
def cyclesTable : Variant → List (Nat × List Byte)
  | .nmos => cyclesNmos
  | .cmos => cyclesNmos ++ cyclesCmos

/-- The base cycle count of an opcode by that column, R100; 0 for a fault slot. -/
def cyclesColumn (v : Variant) (op : Byte) : Nat :=
  match (cyclesTable v).find? (fun row => row.2.contains op) with
  | some row => row.1
  | none => 0

/-- `setNZ(v)` in numbers, R24: Z when `v` is 0, N when `v` is at least $80. -/
def nz (v : Byte) (p : Status) : Status :=
  { p with z := decide (v.toNat = 0), n := decide (128 ≤ v.toNat) }

/-- The value of a packed decimal byte. -/
def decimalValue (v : Byte) : Nat := 10 * (v.toNat / 16) + v.toNat % 16

/-- Both nibbles are decimal digits. -/
def IsDecimal (v : Byte) : Prop := v.toNat / 16 ≤ 9 ∧ v.toNat % 16 ≤ 9

/-- The memory of a device is in canonical form and inside its range. -/
def MemoryOk : Device → Prop
  | .ram lo hi cells => cells.wf = true ∧ ∀ c ∈ cells, lo.toNat ≤ c.1 ∧ c.1 ≤ hi.toNat
  | .rom lo hi image => image.wf = true ∧ ∀ c ∈ image, lo.toNat ≤ c.1 ∧ c.1 ≤ hi.toNat
  | _ => True

/-- A latched handle names a registered device, or the host (R31). -/
def HandleOk (s : State) : Option Handle → Prop
  | some (.device k) => k < s.devices.length
  | _ => True

/-- The invariant of the machine: memories in canonical form; an NMOS CPU in the Normal state (R27); a recorded fault was raised at
a fetch boundary (R320); latched handles name registered devices (R31). -/
structure Inv (s : State) : Prop where
  memory : ∀ d ∈ s.devices, MemoryOk d
  nmosNormal : s.cfg.variant = .nmos → s.runState = .normal
  faultAtBoundary : s.fault.isSome → s.instrCycles = 0 ∧ s.runState = .normal
  nmiHandle : HandleOk s s.nmiPending
  irqHandle : HandleOk s s.irqPending

/-- Two places of the registration order hold the same device, but for the state it keeps: kind and range equal, and a ROM's image
(R331, R41); and a device of R308 has only recorded more calls. -/
def SameDevice : Device → Device → Prop
  | .cpu, .cpu => True
  | .ram lo hi _, .ram lo' hi' _ => lo = lo' ∧ hi = hi'
  | .rom lo hi image, .rom lo' hi' image' => lo = lo' ∧ hi = hi' ∧ image = image'
  | .timer start _, .timer start' _ => start = start'
  | .rtc start, .rtc start' => start = start'
  | .parallel start _, .parallel start' _ => start = start'
  | .display start _, .display start' _ => start = start'
  | .keyboard start, .keyboard start' => start = start'
  | .mouse start, .mouse start' => start = start'
  | .other range calls, .other range' calls' => range = range' ∧ ∃ more, calls' = more ++ calls
  | _, _ => False

/-- The bytes stand in memory from `a` on, at addresses mod 65536 (R90). -/
def BytesAt (devices : List Device) (a : Addr) (bytes : List Byte) : Prop :=
  ∀ k b, bytes[k]? = some b → memoryByte devices (a + BitVec.ofNat 16 k) = some b

/-- `n` draws of the host, in order, and the host's side after them (R347). -/
def drawMany : Nat → HostIO → List Byte × HostIO
  | 0, io => ([], io)
  | n + 1, io => ((draw io).1 :: (drawMany n (draw io).2).1, (drawMany n (draw io).2).2)

/-- `n` bytes read from `a` on, in address order at addresses mod 65536, and the state after the reads (R94). -/
def readBytes : Nat → Addr → State → List Byte × State
  | 0, _, s => ([], s)
  | n + 1, a, s =>
    ((memRead s a).1 :: (readBytes n (a + 1) (memRead s a).2).1, (readBytes n (a + 1) (memRead s a).2).2)

/-- The timer after `n` of its clocks. -/
def timerAfter : Nat → Timer → Timer
  | 0, t => t
  | n + 1, t => timerAfter n (timerClock t).1

/-- RMBn. -/
def rmb (n : Fin 8) (z : Byte) : Instr :=
  match n with
  | 0 => .rmb0 z | 1 => .rmb1 z | 2 => .rmb2 z | 3 => .rmb3 z
  | 4 => .rmb4 z | 5 => .rmb5 z | 6 => .rmb6 z | 7 => .rmb7 z

/-- SMBn. -/
def smb (n : Fin 8) (z : Byte) : Instr :=
  match n with
  | 0 => .smb0 z | 1 => .smb1 z | 2 => .smb2 z | 3 => .smb3 z
  | 4 => .smb4 z | 5 => .smb5 z | 6 => .smb6 z | 7 => .smb7 z

/-- BBRn. -/
def bbr (n : Fin 8) (z d : Byte) : Instr :=
  match n with
  | 0 => .bbr0 z d | 1 => .bbr1 z d | 2 => .bbr2 z d | 3 => .bbr3 z d
  | 4 => .bbr4 z d | 5 => .bbr5 z d | 6 => .bbr6 z d | 7 => .bbr7 z d

/-- BBSn. -/
def bbs (n : Fin 8) (z d : Byte) : Instr :=
  match n with
  | 0 => .bbs0 z d | 1 => .bbs1 z d | 2 => .bbs2 z d | 3 => .bbs3 z d
  | 4 => .bbs4 z d | 5 => .bbs5 z d | 6 => .bbs6 z d | 7 => .bbs7 z d

/-- The address `d` bytes (as a signed displacement) after `pc`, in integers mod 65536 (R93, R95). -/
def displaced (pc : Addr) (d : Byte) : Addr := BitVec.ofInt 16 (pc.toNat + d.toInt)

/-! Which instructions write what: the lists of R21 to R23, R33 to R38 and R96. -/

/-- Writers of A, R21. -/
def writesA : Instr → Bool
  | .lda _ | .adc _ | .sbc _ | .and _ | .ora _ | .eor _ | .txa | .tya | .pla | .incA | .decA => true
  | .asl .accumulator | .lsr .accumulator | .rol .accumulator | .ror .accumulator => true
  | _ => false

/-- Writers of X, R22. -/
def writesX : Instr → Bool
  | .ldx _ | .tax | .tsx | .inx | .dex | .plx => true
  | _ => false

/-- Writers of Y, R22. -/
def writesY : Instr → Bool
  | .ldy _ | .tay | .iny | .dey | .ply => true
  | _ => false

/-- Writers of SP: the pushes and pulls and TXS, R23. -/
def writesSP : Instr → Bool
  | .pha | .php | .phx | .phy | .pla | .plp | .plx | .ply | .txs | .jsr _ | .rts | .brk | .rti => true
  | _ => false

/-- Writers of C, R33. -/
def writesC : Instr → Bool
  | .adc _ | .sbc _ | .cmp _ | .cpx _ | .cpy _ | .asl _ | .lsr _ | .rol _ | .ror _ => true
  | .clc | .sec | .plp | .rti => true
  | _ => false

/-- Writers of N, R34. -/
def writesN : Instr → Bool
  | .lda _ | .ldx _ | .ldy _ | .tax | .tay | .txa | .tya | .tsx | .pla | .plx | .ply => true
  | .adc _ | .sbc _ | .and _ | .ora _ | .eor _ | .inc _ | .dec _ | .inx | .iny | .dex | .dey => true
  | .incA | .decA | .asl _ | .lsr _ | .rol _ | .ror _ | .cmp _ | .cpx _ | .cpy _ => true
  | .plp | .rti | .bit _ => true
  | _ => false

/-- Writers of Z, R34. -/
def writesZ : Instr → Bool
  | .bitImmediate _ | .tsb _ | .trb _ => true
  | i => writesN i

/-- Writers of V, R35. -/
def writesV : Instr → Bool
  | .adc _ | .sbc _ | .bit _ | .clv | .plp | .rti => true
  | _ => false

/-- Writers of D, R36. -/
def writesD : Instr → Bool
  | .cld | .sed | .plp | .rti => true
  | _ => false

/-- Writers of I, R37. -/
def writesI : Instr → Bool
  | .cli | .sei | .plp | .rti | .brk => true
  | _ => false

/-- Writers of B, R38. -/
def writesB : Instr → Bool
  | .plp | .rti => true
  | _ => false

/-- Instructions that store to memory, R96 and the pushes. -/
def writesMemory : Instr → Bool
  | .sta _ | .stx _ | .sty _ | .stz _ | .inc _ | .dec _ | .tsb _ | .trb _ => true
  | .asl (.mem _) | .lsr (.mem _) | .rol (.mem _) | .ror (.mem _) => true
  | .rmb0 _ | .rmb1 _ | .rmb2 _ | .rmb3 _ | .rmb4 _ | .rmb5 _ | .rmb6 _ | .rmb7 _ => true
  | .smb0 _ | .smb1 _ | .smb2 _ | .smb3 _ | .smb4 _ | .smb5 _ | .smb6 _ | .smb7 _ => true
  | .pha | .php | .phx | .phy | .jsr _ | .brk => true
  | _ => false

/-- Instructions that replace PC: the branches and jumps (R230 to R244), RTS, BRK and RTI. -/
def writesPC : Instr → Bool
  | .bpl _ | .bmi _ | .bvc _ | .bvs _ | .bcc _ | .bcs _ | .bne _ | .beq _ | .bra _ => true
  | .bbr0 _ _ | .bbr1 _ _ | .bbr2 _ _ | .bbr3 _ _ | .bbr4 _ _ | .bbr5 _ _ | .bbr6 _ _ | .bbr7 _ _ => true
  | .bbs0 _ _ | .bbs1 _ _ | .bbs2 _ _ | .bbs3 _ _ | .bbs4 _ _ | .bbs5 _ _ | .bbs6 _ _ | .bbs7 _ _ => true
  | .jmp _ | .jmpIndirect _ | .jsr _ | .rts | .brk | .rti => true
  | _ => false

end Sys2Proof.Claims

open Sys2Proof Sys2Proof.Machine Sys2Proof.Claims

/-! ## Encoding -/

/-- Decoding the bytes of a well-formed instruction of the variant gives it back, with every operand, and leaves the bytes after it
(R92, R93, R98, R99, R105). -/
def Obligations.DecodeEncodeRoundTrip : Prop :=
  ∀ (v : Variant) (i : Instr) (rest : List Byte), i.wellFormed = true → i.inVariant v = true →
    decode v (i.encode ++ rest) = .ok (i, rest)

/-- What the decoder reads is a well-formed instruction of the variant, and its bytes are the ones read: no two byte sequences
decode to one instruction. -/
def Obligations.DecodedInstructionsReencode : Prop :=
  ∀ (v : Variant) (bytes rest : List Byte) (i : Instr), decode v bytes = .ok (i, rest) →
    i.wellFormed = true ∧ i.inVariant v = true ∧ i.encode ++ rest = bytes

/-- The descriptor table is total and unambiguous (R92): every opcode with two bytes after it decodes; no two descriptors of a variant
share an opcode; an opcode without a descriptor is exactly a listed fault slot (R101 to R103); and the base cycles of every opcode are
those of the cycles column, at least 2 but for a fault slot (R98 to R100). -/
def Obligations.DescriptorTableIsTotal : Prop :=
  ∀ v : Variant,
    (∀ (op b1 b2 : Byte) (rest : List Byte), ∃ i rest', decode v (op :: b1 :: b2 :: rest) = .ok (i, rest')) ∧
    (descriptorTable v).Pairwise (fun d e => d.opcode ≠ e.opcode) ∧
    (∀ op : Byte, isFaultSlot v op = true ↔
      (v = .nmos ∧ op ∈ jamSlots) ∨ op ∈ notImplementedSlots v) ∧
    (∀ op : Byte, ∀ rest, isFaultSlot v op = true →
      decode v (op :: rest) =
        .ok (if v = .nmos ∧ op ∈ jamSlots then .jam op else .notImplemented op, rest)) ∧
    (∀ op : Byte, baseCycles v op = cyclesColumn v op ∧ (isFaultSlot v op = false → 2 ≤ baseCycles v op))

/-- Words written out from the tables of R98 and R99, one or more per family. -/
def Obligations.SampleWordsDecode : Prop :=
  decode .nmos [0xA9, 0x42] = .ok (.lda (.immediate 0x42), []) ∧
  decode .nmos [0x91, 0x20] = .ok (.sta (.indirectIndexedY 0x20), []) ∧
  decode .nmos [0x9A] = .ok (.txs, []) ∧
  decode .nmos [0xFD, 0x34, 0x12] = .ok (.sbc (.mem (.absoluteX 0x1234)), []) ∧
  decode .nmos [0x2C, 0x00, 0x40] = .ok (.bit (.absolute 0x4000), []) ∧
  decode .nmos [0x6C, 0xFF, 0x10] = .ok (.jmpIndirect 0x10FF, []) ∧
  decode .nmos [0x00, 0xEA] = .ok (.brk, [0xEA]) ∧
  decode .nmos [0x02, 0x10] = .ok (.jam 0x02, [0x10]) ∧
  decode .cmos [0x2F, 0x10, 0x05] = .ok (.bbr2 0x10 0x05, []) ∧
  decode .cmos [0x1A] = .ok (.incA, []) ∧
  decode .nmos [0x1A] = .ok (.notImplemented 0x1A, [])

/-! ## Reset -/

/-- The CPU's reset (R370): SP, the flags, the PC from the RESET vector, low byte first, the counters, latches, run state and fault, A, X
and Y as three draws; the status byte reads $24. The vector's two reads and the three draws are all that reaches the devices and the host,
and no device emits an event or requests an interrupt in them (R372). -/
def Obligations.CpuResetState : Prop :=
  ∀ s : State,
    let w := resetReadWord s s.cfg.resetVec
    let t := cpuReset s
    t.sp = 0xFD ∧ t.pc = w.1 ∧ statusByte t = 0x24 ∧
    t.p.i = true ∧ t.p.n = false ∧ t.p.v = false ∧ t.p.b = false ∧ t.p.d = false ∧ t.p.z = false ∧ t.p.c = false ∧
    t.instrCycles = s.cfg.resetCycles ∧ t.totalCycles = 0 ∧ t.nmiPending = none ∧ t.irqPending = none ∧
    t.runState = .normal ∧ t.fault = none ∧
    t.a = (draw w.2.io).1 ∧ t.x = (draw (draw w.2.io).2).1 ∧ t.y = (draw (draw (draw w.2.io).2).2).1 ∧
    t.cfg = s.cfg ∧ t.clockCalls = s.clockCalls ∧ StoresNothing s t ∧
    t.devices = w.2.devices ∧ t.io = (draw (draw (draw w.2.io).2).2).2 ∧ t.io.events = s.io.events ∧
    (∃ u lo hi, lo = memRead s s.cfg.resetVec ∧ u.devices = lo.2.devices ∧ u.io.events = s.io.events ∧
      hi = memRead u (s.cfg.resetVec + 1) ∧ w.2.devices = hi.2.devices ∧
      w.1 = BitVec.ofNat 16 (256 * hi.1.toNat + lo.1.toNat)) ∧
    (∀ lo hi, memoryByte s.devices s.cfg.resetVec = some lo → memoryByte s.devices (s.cfg.resetVec + 1) = some hi →
      t.pc = BitVec.ofNat 16 (256 * hi.toNat + lo.toNat) ∧ t.devices = s.devices ∧
        t.io = (draw (draw (draw s.io).2).2).2)

/-- The Bus reset (R58, R370, R372): RAM and ROM keep their contents, the timer is zeroed (R334), the parallel port's data and the
display's six latches become the host's next draws when their turn comes (R336, R337; the order of the display's eight is log entry 11),
every other device stays of its kind and in its range, and one of R308 gets one `reset()` call; the CPU is left in its reset state, its PC
being the word at the RESET vector that the devices registered before it, already reset, and the others then give (R373); no device emits
an event or requests an interrupt. That the event history goes on and the count of calls starts again is the model's choice (log entry
13). -/
def Obligations.BusResetDevices : Prop :=
  ∀ s : State, configOk s = true →
    let t := busReset s
    let w := resetReadWord (resetDevices (List.range (s.devices.idxOf .cpu)) s) s.cfg.resetVec
    t.devices.length = s.devices.length ∧
    (∀ (k : Nat) (d : Device), s.devices[k]? = some d →
      ∃ d', t.devices[k]? = some d' ∧ SameDevice d d' ∧
        (∀ lo hi cells, d = .ram lo hi cells → d' = d) ∧
        (∀ start r, d = .timer start r →
          d' = .timer start { enable := false, nmi := false, interval := 0, counter := 0 }) ∧
        (∀ start data, d = .parallel start data →
          let u := resetDevices (List.range k) s
          d' = .parallel start (draw u.io).1 ∧ (resetDevices (List.range (k + 1)) s).io = (draw u.io).2) ∧
        (∀ start r, d = .display start r →
          let u := resetDevices (List.range k) s
          ∃ charX charY cursorX cursorY xlo xhi ylo yhi : Byte,
            drawMany 8 u.io =
              ([charX, charY, cursorX, cursorY, xlo, xhi, ylo, yhi], (resetDevices (List.range (k + 1)) s).io) ∧
            d' = .display start
              { charX := charX, charY := charY, cursorX := cursorX, cursorY := cursorY
                pixelX := BitVec.ofNat 16 (256 * xhi.toNat + xlo.toNat)
                pixelY := BitVec.ofNat 16 (256 * yhi.toNat + ylo.toNat) }) ∧
        (∀ range calls, d = .other range calls →
          ∃ more, d' = .other range (more ++ calls) ∧ more.count .reset = 1 ∧ ∀ c ∈ more, c = .reset ∨ ∃ a, c = .get a)) ∧
    t.sp = 0xFD ∧ t.pc = w.1 ∧ statusByte t = 0x24 ∧ t.p = Status.reset ∧
    t.a = (draw w.2.io).1 ∧ t.x = (draw (draw w.2.io).2).1 ∧ t.y = (draw (draw (draw w.2.io).2).2).1 ∧
    t.instrCycles = s.cfg.resetCycles ∧ t.totalCycles = 0 ∧ t.nmiPending = none ∧ t.irqPending = none ∧
    t.runState = .normal ∧ t.fault = none ∧ t.cfg = s.cfg ∧ t.clockCalls = 0 ∧
    (∀ lo hi, memoryByte s.devices s.cfg.resetVec = some lo → memoryByte s.devices (s.cfg.resetVec + 1) = some hi →
      t.pc = BitVec.ofNat 16 (256 * hi.toNat + lo.toNat)) ∧
    t.io.events = s.io.events

/-- `State.reset` is what a Bus reset makes of the default configuration when the host answers 0 to the three draws, whatever the
registers, latches and counters held before. The configuration (log entry 2), the answers (log entry 3) and that the count of clock
calls starts again from 0 (log entry 13) are the model's choices. -/
def Obligations.StateResetIsBusReset : Prop :=
  ∀ s : State, s.cfg = Config.default → s.devices = defaultDevices →
    s.io = { events := [], answers := [0, 0, 0], draws := 0 } → busReset s = State.reset

/-! ## Invariants of every step -/

/-- The invariant holds right after reset. -/
def Obligations.ResetMeetsInvariant : Prop := Inv State.reset

/-- Every step from a state with the invariant ends in one with it, and so does every move the host may make between steps, the Bus
reset among them (R341, R370). -/
def Obligations.StepKeepsInvariant : Prop :=
  ∀ s : State, Inv s → (∀ t, step s = .next t → Inv t) ∧ ∀ h : HostAction, Inv (hostAction h s)

/-- No step changes the configuration: the parameters (R41), the number and order of the devices, their kinds and ranges, and the
contents of ROM (R331), while a device of R308 only records calls; and a configuration that has a run keeps having one. -/
def Obligations.StepKeepsConfiguration : Prop :=
  ∀ s t : State, step s = .next t →
    t.cfg = s.cfg ∧ configOk t = true ∧ t.devices.length = s.devices.length ∧
    ∀ (k : Nat) (d : Device), s.devices[k]? = some d → ∃ d', t.devices[k]? = some d' ∧ SameDevice d d'

/-- The counters and the history (R30, R346, R351): a step is one clock call; `totalCycles` grows by one exactly when the CPU was in
the Normal state and raised no fault, and else stays; events are only added at the end. -/
def Obligations.StepCountsCyclesAndEvents : Prop :=
  ∀ s t : State, step s = .next t →
    t.clockCalls = s.clockCalls + 1 ∧
    t.totalCycles = s.totalCycles + (if s.runState = .normal ∧ t.fault = none then 1 else 0) ∧
    ∃ new, t.io.events = s.io.events ++ new

/-! ## The clock -/

/-- A step runs the decoded instruction (R57, R300, R301): the devices before the CPU are clocked, in order, to `s1`; where the CPU
is then at a fetch boundary with no eligible interrupt and no breakpoint, and the bytes at PC decode to the instruction `i`, the
CPU runs `exec i` with PC past the bytes and the base cycles charged, passes this call's own cycle, and the devices after it are
clocked. -/
def Obligations.StepRunsDecodedInstruction : Prop :=
  ∀ (s s1 : State) (before after : List Device) (op : Byte) (operands : List Byte) (i : Instr),
    configOk s = true → s.fault = none → s.devices = before ++ .cpu :: after →
    clockDevices (List.range before.length) { s with clockCalls := s.clockCalls + 1 } = .next s1 →
    s1.runState = .normal → s1.instrCycles = 0 → eligible s1 = none →
    s1.pc ∉ s1.cfg.breakpoints → (s1.cfg.brkIsStop = true → op ≠ 0x00) →
    BytesAt s1.devices s1.pc (op :: operands) →
    decode s1.cfg.variant (op :: operands) = .ok (i, []) → isFaultSlot s1.cfg.variant op = false →
    ∃ t, exec i
        { s1 with
          pc := s1.pc + BitVec.ofNat 16 (1 + operands.length)
          instrCycles := baseCycles s1.cfg.variant op } = .next t ∧
      step s =
        clockDevices (List.range' (before.length + 1) after.length)
          { t with instrCycles := t.instrCycles - 1, totalCycles := t.totalCycles + 1 }

/-- A time-passing cycle (R301 step 1): no side effect but the two counters. -/
def Obligations.TimePassingCycle : Prop :=
  ∀ s : State, s.runState = .normal → 0 < s.instrCycles →
    cpuClock s = .next { s with instrCycles := s.instrCycles - 1, totalCycles := s.totalCycles + 1 }

/-- Interrupt entry (R310, R311): at a fetch boundary with an eligible interrupt nothing is read at PC; PC (unchanged), then the status
with bit 4 clear go to the stack; I is set and no other flag changes; PC is the word at the kind's vector; the serviced latch is emptied
and the other is left as those five Bus accesses leave it; 7 cycles are charged, this call's being the first; and the devices and the
host's side are those after the five accesses. -/
def Obligations.InterruptEntry : Prop :=
  ∀ (s : State) (kind : InterruptKind), s.runState = .normal → s.instrCycles = 0 → eligible s = some kind →
    ∃ t pushed w, cpuClock s = .next t ∧
      pushed = push (serialize s.p false) (push (loByte s.pc) (push (hiByte s.pc) s)) ∧
      w = readWord pushed (match kind with | .nmi => s.cfg.nmiVec | .irq => s.cfg.irqVec) ∧
      Registers t s.a s.x s.y (s.sp - 3) w.1 { s.p with i := true } ∧
      t.nmiPending = (if kind = .nmi then none else w.2.nmiPending) ∧
      t.irqPending = (if kind = .irq then none else w.2.irqPending) ∧
      t.instrCycles = 6 ∧ t.totalCycles = s.totalCycles + 1 ∧
      t.cfg = s.cfg ∧ t.runState = .normal ∧ t.fault = s.fault ∧ t.clockCalls = s.clockCalls ∧
      t.devices = w.2.devices ∧ t.io = w.2.io ∧
      (∀ a, a ≠ stackAddr s.sp → a ≠ stackAddr (s.sp - 1) → a ≠ stackAddr (s.sp - 2) →
        memoryByte t.devices a = memoryByte s.devices a) ∧
      (RamAt s.devices (stackAddr s.sp) → memoryByte t.devices (stackAddr s.sp) = some (hiByte s.pc)) ∧
      (RamAt s.devices (stackAddr (s.sp - 1)) → memoryByte t.devices (stackAddr (s.sp - 1)) = some (loByte s.pc)) ∧
      (RamAt s.devices (stackAddr (s.sp - 2)) →
        ∃ byte, memoryByte t.devices (stackAddr (s.sp - 2)) = some byte ∧
          byte.getLsbD 4 = false ∧ byte.getLsbD 5 = true ∧ byte.getLsbD 2 = s.p.i)

/-- Eligibility and requests (R302, R303, R304): NMI whenever latched; IRQ when latched, I clear and no NMI; a request sets its
kind's latch to the requester at once, replacing any other, and changes nothing else. A device of R308 makes its requests from inside
`get`, `set` or `clock` (R53, R59, R73): the call is over with the latch set, and with the device changed (what it asks for is drawn:
the model's form, log entry 15). -/
def Obligations.EligibilityAndRequests : Prop :=
  (∀ (s : State) (h : Handle),
    (eligible s = some .nmi ↔ s.nmiPending ≠ none) ∧
    (eligible s = some .irq ↔ s.nmiPending = none ∧ s.irqPending ≠ none ∧ s.p.i = false) ∧
    (s.fault = none →
      request .nmi h s = { s with nmiPending := some h } ∧ request .irq h s = { s with irqPending := some h })) ∧
  (∀ (s : State) (before after : List Device) (range : Option (Addr × Addr)) (calls : List DeviceCall) (a : Addr)
      (v asked : Byte) (rest : List Byte),
    s.fault = none → s.devices = before ++ .other range calls :: after →
    ((∀ e ∈ before, deviceContains e a = false) → deviceContains (.other range calls) a = true →
      s.io.answers = v :: asked :: 0 :: rest →
      memRead s a = (v, afterOtherCall s before after range (.get a :: calls) asked rest)) ∧
    ((∀ e ∈ before, deviceContains e a = false) → deviceContains (.other range calls) a = true →
      (∀ e ∈ after, deviceContains e a = false) → s.io.answers = asked :: 0 :: rest →
      memWrite s a v = afterOtherCall s before after range (.set a v :: calls) asked rest) ∧
    (s.io.answers = asked :: 0 :: 0 :: rest →
      clockDevice before.length s = .next (afterOtherCall s before after range (.clock :: calls) asked rest)))

/-- A latched request is never lost (R31, R305): a CPU clock call empties a latch only by servicing that kind at a fetch boundary, or
by the Stopped wake (R317), which consumes both; whatever the instruction run. A latch it does not empty is as before or holds the
handle of a device of R308 that the call read or wrote (R73). -/
def Obligations.LatchesAreKept : Prop :=
  ∀ s t : State, cpuClock s = .next t →
    let woken := s.runState = .stopped ∧ (s.nmiPending ≠ none ∨ s.irqPending ≠ none) ∧
      t.runState = .normal ∧ t.nmiPending = none ∧ t.irqPending = none
    (LatchFrom s.devices t.devices s.nmiPending t.nmiPending ∨ woken ∨
      (s.runState = .normal ∧ s.instrCycles = 0 ∧ eligible s = some .nmi ∧ t.nmiPending = none)) ∧
    (LatchFrom s.devices t.devices s.irqPending t.irqPending ∨ woken ∨
      (s.runState = .normal ∧ s.instrCycles = 0 ∧ eligible s = some .irq ∧ t.irqPending = none))

/-- The Waiting clock (R316). -/
def Obligations.WaitingClock : Prop :=
  ∀ s : State, s.runState = .waiting →
    ((s.nmiPending ≠ none ∨ s.irqPending ≠ none) →
      cpuClock s = .next { s with runState := .normal, instrCycles := 1 }) ∧
    (s.nmiPending = none ∧ s.irqPending = none → cpuClock s = .next s)

/-- The Stopped clock (R317): the wake reloads PC from the RESET vector, empties both latches and leaves A, X, Y, SP, P,
`totalCycles` and memory as they are; nothing but the vector's two reads reaches the devices and the host. -/
def Obligations.StoppedClock : Prop :=
  ∀ s : State, s.runState = .stopped →
    ((s.nmiPending ≠ none ∨ s.irqPending ≠ none) →
      ∃ t, cpuClock s = .next t ∧
        Registers t s.a s.x s.y s.sp (readWord s s.cfg.resetVec).1 s.p ∧
        t.runState = .normal ∧ t.instrCycles = 1 ∧ t.nmiPending = none ∧ t.irqPending = none ∧
        t.totalCycles = s.totalCycles ∧ StoresNothing s t ∧
        t.devices = (readWord s s.cfg.resetVec).2.devices ∧ t.io = (readWord s s.cfg.resetVec).2.io ∧
        t.cfg = s.cfg ∧ t.fault = s.fault ∧ t.clockCalls = s.clockCalls) ∧
    (s.nmiPending = none ∧ s.irqPending = none → cpuClock s = .next s)

/-- Fault slots (R275, R276, R320): dispatching the opcode of a fault slot, read from memory or substituted, records the fault with
the opcode and its address and changes nothing else; a fetch boundary with such an opcode in memory at PC does just that; and a fault
of any kind that the CPU raises ends the whole Bus call there: the devices registered after the CPU are not clocked in it. -/
def Obligations.FaultSlotsRaise : Prop :=
  ∀ (s : State) (op : Byte),
    (s.cfg.variant = .nmos → op ∈ jamSlots →
      dispatch op s = .next { s with fault := some (.invalidOpcode op s.pc) }) ∧
    (op ∈ notImplementedSlots s.cfg.variant →
      dispatch op s = .next { s with fault := some (.notImplemented op s.pc) }) ∧
    (s.runState = .normal → s.instrCycles = 0 → eligible s = none → s.pc ∉ s.cfg.breakpoints →
      memoryByte s.devices s.pc = some op → cpuClock s = dispatch op s) ∧
    exec (.jam op) s = .next { s with fault := some (.invalidOpcode op s.pc) } ∧
    exec (.notImplemented op) s = .next { s with fault := some (.notImplemented op s.pc) } ∧
    (∀ (before after : List Device) (s1 t : State), configOk s = true → s.fault = none → s.devices = before ++ .cpu :: after →
      clockDevices (List.range before.length) { s with clockCalls := s.clockCalls + 1 } = .next s1 →
      cpuClock s1 = .next t → t.fault ≠ none → step s = .next t)

/-- Stop on BRK (R323): with `BRK_IS_STOP` set, a resolved opcode $00 records BrkStop and changes nothing else. -/
def Obligations.StopOnBrkRaises : Prop :=
  ∀ s : State, s.cfg.brkIsStop = true →
    dispatch 0x00 s = .next { s with fault := some (.brkStop 0x00 s.pc) }

/-- A faulted machine (R325, R350): every step answers the recorded fault, a request to it is ignored, and its run has not ended at any
`END_ADDR`. -/
def Obligations.FaultedMachineHasNoStep : Prop :=
  ∀ (s : State) (f : Fault), s.fault = some f →
    (configOk s = true → step s = .fault f) ∧ (∀ kind h, request kind h s = s) ∧ ∀ endAddr, ¬Ended endAddr s

/-- Configuration errors (R52, R321; that the model refuses every step of such a configuration, one without exactly one CPU, R319, or
with no reset cost, R7, is log entry 6): with a device whose range ends before it starts or past $FFFF no step has a next state; with
every range valid, overlapping or not, with one CPU, a reset cost and no recorded fault every step has one. -/
def Obligations.ConfigurationDecidesRun : Prop :=
  ∀ s : State,
    (∀ (d : Device) (lo hi : Nat), d ∈ s.devices → deviceRange d = some (lo, hi) →
      (hi < lo ∨ 0xFFFF < hi) → step s = .refused .configurationError) ∧
    (s.devices.count .cpu ≠ 1 → step s = .refused .configurationError) ∧
    (s.cfg.resetCycles = 0 → step s = .refused .configurationError) ∧
    ((∀ (d : Device) (lo hi : Nat), d ∈ s.devices → deviceRange d = some (lo, hi) → lo ≤ hi ∧ hi ≤ 0xFFFF) →
      s.devices.count .cpu = 1 → 1 ≤ s.cfg.resetCycles → s.fault = none → ∃ t, step s = .next t)

/-- The breakpoint hook (R340, R301): without a handler at PC the opcode is the byte read; with one, its answer either substitutes the
opcode at the same PC, or moves PC and repeats the read while redirects are left, and raises the redirect limit when none is. The opcode
this resolves to, read (from memory or from a device's register) or substituted, is the one the fetch boundary dispatches; an implemented
one is executed with PC past it and its operand bytes, which are read on the Bus after PC, and this call's own cycle is passed. The answer
is a draw of the host (log entry 12). -/
def Obligations.BreakpointHook : Prop :=
  ∀ (s : State) (left : Nat),
    let op := memRead s s.pc
    let answer := hookAnswer op.2.io
    let s' := { op.2 with io := answer.2 }
    (s.pc ∉ s.cfg.breakpoints → fetchOpcode left s = .opcode op.1 op.2) ∧
    (s.pc ∈ s.cfg.breakpoints → answer.1.1 = s.pc → fetchOpcode left s = .opcode answer.1.2 s') ∧
    (s.pc ∈ s.cfg.breakpoints → answer.1.1 ≠ s.pc →
      fetchOpcode 0 s = .redirectLimit op.1 s' ∧
      fetchOpcode (left + 1) s = fetchOpcode left { s' with pc := answer.1.1 }) ∧
    (s.runState = .normal → s.instrCycles = 0 → eligible s = none →
      (∀ byte u, fetchOpcode s.cfg.maxRedirects s = .opcode byte u → cpuClock s = dispatch byte u) ∧
      (∀ byte u, fetchOpcode s.cfg.maxRedirects s = .redirectLimit byte u →
        cpuClock s = .next { u with fault := some (.breakpointRedirectLimit byte u.pc) }) ∧
      (s.pc ∈ s.cfg.breakpoints → answer.1.1 = s.pc → cpuClock s = dispatch answer.1.2 s')) ∧
    (∀ byte : Byte, isFaultSlot s.cfg.variant byte = false → (s.cfg.brkIsStop = true → byte ≠ 0x00) →
      ∃ n i t,
        let operands := readBytes n (s.pc + 1) s
        decode s.cfg.variant (byte :: operands.1) = .ok (i, []) ∧
        exec i
          { operands.2 with
            pc := s.pc + BitVec.ofNat 16 (1 + n)
            instrCycles := baseCycles s.cfg.variant byte } = .next t ∧
        dispatch byte s = .next { t with instrCycles := t.instrCycles - 1, totalCycles := t.totalCycles + 1 })

/-! ## The Bus and the devices -/

/-- Bus read (R55): the first matching device's `get` answers, its side effects are all there are, and $FF where none matches. -/
def Obligations.BusReadFirstMatch : Prop :=
  ∀ (devices before after : List Device) (d : Device) (io : HostIO) (a : Addr),
    ((∀ e ∈ before, deviceContains e a = false) → deviceContains d a = true →
      busRead (before ++ d :: after) io a =
        ((deviceGet d a io).1,
          { devices := before ++ (deviceGet d a io).2.device :: after
            io := (deviceGet d a io).2.io
            requests := requestsFrom before.length (deviceGet d a io).2.requests })) ∧
    ((∀ e ∈ devices, deviceContains e a = false) →
      busRead devices io a = (0xFF, { devices := devices, io := io, requests := [] }))

/-- Bus write (R56): the devices are written in order, each matching one once; RAM holds the byte and keeps every other; ROM and every
device outside are unchanged; a device of R308 gets the call; a write nothing matches has no effect. -/
def Obligations.BusWriteEveryMatch : Prop :=
  ∀ (devices more : List Device) (io : HostIO) (a : Addr) (v : Byte),
    (∀ n : Nat,
      let first := busWriteFrom n devices io a v
      let second := busWriteFrom (n + devices.length) more first.io a v
      busWriteFrom n (devices ++ more) io a v =
        { devices := first.devices ++ second.devices, io := second.io, requests := first.requests ++ second.requests }) ∧
    (∀ (n : Nat) (d : Device), deviceContains d a = true →
      busWriteFrom n [d] io a v =
        { devices := [(deviceSet d a v io).device]
          io := (deviceSet d a v io).io
          requests := requestsFrom n (deviceSet d a v io).requests }) ∧
    (busWrite devices io a v).devices.length = devices.length ∧
    (∀ (k : Nat) (d : Device), devices[k]? = some d → deviceContains d a = false →
      (busWrite devices io a v).devices[k]? = some d) ∧
    (∀ (k : Nat) (lo hi : Addr) (cells : Memory), devices[k]? = some (.ram lo hi cells) → lo ≤ a → a ≤ hi →
      ∃ cells', (busWrite devices io a v).devices[k]? = some (.ram lo hi cells') ∧
        cells'.read a.toNat = v ∧ ∀ b, b ≠ a.toNat → cells'.read b = cells.read b) ∧
    (∀ (k : Nat) (lo hi : Addr) (image : Memory), devices[k]? = some (.rom lo hi image) →
      (busWrite devices io a v).devices[k]? = some (.rom lo hi image)) ∧
    (∀ (k : Nat) (lo hi : Addr) (calls : List DeviceCall), devices[k]? = some (.other (some (lo, hi)) calls) → lo ≤ a → a ≤ hi →
      (busWrite devices io a v).devices[k]? = some (.other (some (lo, hi)) (.set a v :: calls))) ∧
    ((∀ e ∈ devices, deviceContains e a = false) →
      busWrite devices io a v = { devices := devices, io := io, requests := [] })

/-- The timer's registers (R332): the control register reads back its two bits, the interval its three bytes; a write of one leaves
the others; the counter changes only when the timer is enabled from disabled, to 0. On the Bus they are the four addresses from the
timer's start, register by register, and an access does nothing else (R53). -/
def Obligations.TimerRegisters : Prop :=
  ∀ (t : Timer) (v : Byte),
    (timerGet (timerSet t 0 v) 0).toNat = v.toNat % 4 ∧
    (timerSet t 0 v).enable = v.getLsbD 0 ∧ (timerSet t 0 v).nmi = v.getLsbD 1 ∧
    (timerSet t 0 v).interval = t.interval ∧
    (timerSet t 0 v).counter = (if t.enable = false ∧ v.getLsbD 0 = true then 0 else t.counter) ∧
    (∀ k : Nat, 1 ≤ k → k ≤ 3 →
      timerGet (timerSet t k v) k = v ∧
      (∀ j : Nat, j ≤ 3 → j ≠ k → timerGet (timerSet t k v) j = timerGet t j) ∧
      (timerSet t k v).counter = t.counter ∧ (timerSet t k v).enable = t.enable) ∧
    t.interval.toNat = (timerGet t 1).toNat + 256 * (timerGet t 2).toNat + 65536 * (timerGet t 3).toNat ∧
    (∀ (start a : Addr) (k : Nat) (io : HostIO), a.toNat = start.toNat + k →
      (deviceContains (.timer start t) a = true ↔ k ≤ 3) ∧
      deviceGet (.timer start t) a io = (timerGet t k, quiet (.timer start t) io) ∧
      deviceSet (.timer start t) a v io = quiet (.timer start (timerSet t k v)) io)

/-- The timer's period (R333): an enabled timer counts mod 2^24 from any counter and fires, which leaves the counter at 0, exactly when
the count reaches a nonzero interval; so from counter 0 it does not fire on its first `interval - 1` clocks and fires on the next; a
disabled one, and an interval of 0, never fire. Its clock at place `k` of the registration order, when it fires, requests NMI with its
`nmi` bit set and IRQ with it clear, under the handle of its place, and changes nothing else but its counter. The clock of RAM, ROM, the
real-time clock, the parallel port, the display, the keyboard and the mouse does nothing (R330, R331, R335 to R339). -/
def Obligations.TimerPeriod : Prop :=
  ∀ t : Timer,
    (t.enable = true → t.interval ≠ 0 → t.counter = 0 →
      (∀ n : Nat, n < t.interval.toNat →
        timerAfter n t = { t with counter := BitVec.ofNat 24 n } ∧
        ((timerClock (timerAfter n t)).2 = true ↔ n + 1 = t.interval.toNat)) ∧
      timerAfter t.interval.toNat t = t) ∧
    (t.enable = true →
      let count := (t.counter.toNat + 1) % 2 ^ 24
      timerClock t =
        if t.interval ≠ 0 ∧ count = t.interval.toNat then ({ t with counter := 0 }, true)
        else ({ t with counter := BitVec.ofNat 24 count }, false)) ∧
    (t.enable = false → timerClock t = (t, false)) ∧
    (t.interval = 0 → (timerClock t).2 = false) ∧
    (∀ (s : State) (k : Nat) (d : Device), s.devices[k]? = some d →
      d ≠ .cpu → (∀ start r, d ≠ .timer start r) → (∀ range calls, d ≠ .other range calls) → clockDevice k s = .next s) ∧
    (∀ (s : State) (k : Nat) (start : Addr), s.fault = none → s.devices[k]? = some (.timer start t) →
      clockDevice k s =
        .next
          { s with
            devices := s.devices.set k (.timer start (timerClock t).1)
            nmiPending := if (timerClock t).2 = true ∧ t.nmi = true then some (.device k) else s.nmiPending
            irqPending := if (timerClock t).2 = true ∧ t.nmi = false then some (.device k) else s.irqPending })

/-- Writes to the parallel port and the display (R336, R337), every register by its offset: which latch changes, which event is
appended, and nothing else. After TextOut the new cursor is two draws (their order is log entry 11). -/
def Obligations.DisplayAndParallelWrites : Prop :=
  ∀ (start : Addr) (data v : Byte) (d : Display) (io : HostIO),
    let emitted := fun e : HostEvent => { io with events := io.events ++ [e] }
    (start.toNat + 1 ≤ 0xFFFF →
      deviceSet (.parallel start data) start v io = quiet (.parallel start v) io ∧
      deviceSet (.parallel start data) (start + 1) v io =
        quiet (.parallel start data) (if v.getLsbD 0 = true then emitted (.parallelChar data) else io)) ∧
    (start.toNat + 10 ≤ 0xFFFF →
      deviceSet (.display start d) start v io = quiet (.display start { d with charX := v }) io ∧
      deviceSet (.display start d) (start + 1) v io = quiet (.display start { d with charY := v }) io ∧
      deviceSet (.display start d) (start + 2) v io = quiet (.display start d) (emitted (.setChar d.charX d.charY v)) ∧
      deviceSet (.display start d) (start + 3) v io =
        quiet (.display start { d with pixelX := BitVec.ofNat 16 (256 * (d.pixelX.toNat / 256) + v.toNat) }) io ∧
      deviceSet (.display start d) (start + 4) v io =
        quiet (.display start { d with pixelX := BitVec.ofNat 16 (256 * v.toNat + d.pixelX.toNat % 256) }) io ∧
      deviceSet (.display start d) (start + 5) v io =
        quiet (.display start { d with pixelY := BitVec.ofNat 16 (256 * (d.pixelY.toNat / 256) + v.toNat) }) io ∧
      deviceSet (.display start d) (start + 6) v io =
        quiet (.display start { d with pixelY := BitVec.ofNat 16 (256 * v.toNat + d.pixelY.toNat % 256) }) io ∧
      deviceSet (.display start d) (start + 7) v io = quiet (.display start d) (emitted (.setPixel d.pixelX d.pixelY v)) ∧
      deviceSet (.display start d) (start + 8) v io =
        quiet (.display start { d with cursorX := v }) (emitted (.moveCursor v d.cursorY)) ∧
      deviceSet (.display start d) (start + 9) v io =
        quiet (.display start { d with cursorY := v }) (emitted (.moveCursor d.cursorX v)) ∧
      (∃ x y, x = draw (emitted (.textOut v)) ∧ y = draw x.2 ∧
        deviceSet (.display start d) (start + 10) v io =
          quiet (.display start { d with cursorX := x.1, cursorY := y.1 }) y.2))

/-- Reads of the devices the host stands behind (R335 to R339, R347), every register by its offset: the keyboard, the mouse, the clock,
the parallel control and the display's read-backs give one draw each, the other registers of the port and the display their latch; a
read changes no device, and the keyboard, the mouse and the clock ignore writes. The clock's month, day, hour, minute, second and
millisecond-high bytes lie in their ranges (log entry 10), and every byte of the month's range can be drawn. -/
def Obligations.HostAnsweredReads : Prop :=
  ∀ (start a : Addr) (v : Byte) (io : HostIO),
    let drawn := fun d : Device => ((draw io).1, quiet d (draw io).2)
    deviceGet (.keyboard start) a io = drawn (.keyboard start) ∧ deviceGet (.mouse start) a io = drawn (.mouse start) ∧
    (∀ k : Nat, a.toNat = start.toNat + k →
      (deviceContains (.keyboard start) a = true ↔ k = 0) ∧ (deviceContains (.mouse start) a = true ↔ k ≤ 4) ∧
      (deviceContains (.rtc start) a = true ↔ k ≤ 8) ∧
      deviceGet (.rtc start) a io = ((rtcGet k io).1, quiet (.rtc start) (draw io).2) ∧
      (∀ data : Byte,
        (deviceContains (.parallel start data) a = true ↔ k ≤ 1) ∧
        deviceGet (.parallel start data) a io =
          (if k = 0 then (data, quiet (.parallel start data) io) else drawn (.parallel start data))) ∧
      (∀ d : Display,
        (deviceContains (.display start d) a = true ↔ k ≤ 10) ∧
        deviceGet (.display start d) a io =
          (match k with
            | 0 => (d.charX, quiet (.display start d) io)
            | 1 => (d.charY, quiet (.display start d) io)
            | 3 => (BitVec.ofNat 8 d.pixelX.toNat, quiet (.display start d) io)
            | 4 => (BitVec.ofNat 8 (d.pixelX.toNat / 256), quiet (.display start d) io)
            | 5 => (BitVec.ofNat 8 d.pixelY.toNat, quiet (.display start d) io)
            | 6 => (BitVec.ofNat 8 (d.pixelY.toNat / 256), quiet (.display start d) io)
            | 8 => (d.cursorX, quiet (.display start d) io)
            | 9 => (d.cursorY, quiet (.display start d) io)
            | _ => drawn (.display start d)))) ∧
    deviceSet (.keyboard start) a v io = quiet (.keyboard start) io ∧
    deviceSet (.mouse start) a v io = quiet (.mouse start) io ∧ deviceSet (.rtc start) a v io = quiet (.rtc start) io ∧
    (draw io).2.events = io.events ∧
    (1 ≤ (rtcGet 2 io).1.toNat ∧ (rtcGet 2 io).1.toNat ≤ 12) ∧
    (1 ≤ (rtcGet 3 io).1.toNat ∧ (rtcGet 3 io).1.toNat ≤ 31) ∧
    (rtcGet 4 io).1.toNat ≤ 23 ∧ (rtcGet 5 io).1.toNat ≤ 59 ∧ (rtcGet 6 io).1.toNat ≤ 59 ∧
    (rtcGet 8 io).1.toNat ≤ 3 ∧
    (∀ k ∈ [0, 1, 7], (rtcGet k io).1 = (draw io).1) ∧
    (1 ≤ v.toNat → v.toNat ≤ 12 → ∀ rest, io.answers = v :: rest → (rtcGet 2 io).1 = v)

/-- The host between calls (R341, R303): a poke writes its register and nothing else, a request its kind's latch, a Bus access what a CPU
access would, with the same side effects; no move but a reset writes the counters, the run state, the fault or the configuration. -/
def Obligations.HostMoves : Prop :=
  ∀ (s : State) (h : HostAction), h ≠ .reset →
    let t := hostAction h s
    Registers t
      (match h with | .pokeA v => v | _ => s.a) (match h with | .pokeX v => v | _ => s.x)
      (match h with | .pokeY v => v | _ => s.y) (match h with | .pokeSP v => v | _ => s.sp)
      (match h with | .pokePC v => v | _ => s.pc) (match h with | .pokeFlags p => p | _ => s.p) ∧
    SameEngine s t ∧
    (∀ a v, h = .busWrite a v → StoresAt a v s s t) ∧
    ((∀ a v, h ≠ .busWrite a v) → StoresNothing s t) ∧
    (∀ a, h = .busRead a → SameSide (memRead s a).2 t ∧ hostReadValue s a = (memRead s a).1) ∧
    ((∀ a, h ≠ .busRead a) → (∀ a v, h ≠ .busWrite a v) →
      t.devices = s.devices ∧ t.io = s.io ∧
      t.nmiPending = (if h = .request .nmi ∧ s.fault = none then some .host else s.nmiPending) ∧
      t.irqPending = (if h = .request .irq ∧ s.fault = none then some .host else s.irqPending))

/-! ## Memory, stack and operands -/

/-- The contents of a memory device: a write is read back, leaves every other byte, and keeps the canonical form; and contents in that
form that read alike everywhere are equal. -/
def Obligations.MemoryIsCanonical : Prop :=
  ∀ (m n : Memory) (a b : Nat) (v : Byte),
    (m.write a v).read a = v ∧ (b ≠ a → (m.write a v).read b = m.read b) ∧
    (m.wf = true → (m.write a v).wf = true) ∧
    (m.wf = true → n.wf = true → (∀ k, m.read k = n.read k) → m = n)

/-- The stack (R65, R66, R67): a push writes at $0100 plus SP and then lowers SP mod 256; a pull raises SP mod 256 and reads there;
nothing outside page 1 is touched; and a pull right after a push on RAM gives the byte back and restores SP. -/
def Obligations.StackPushAndPull : Prop :=
  ∀ (s : State) (v : Byte),
    push v s =
      { memWrite s (BitVec.ofNat 16 (256 + s.sp.toNat)) v with sp := BitVec.ofNat 8 (s.sp.toNat + 255) } ∧
    pull s =
      memRead { s with sp := BitVec.ofNat 8 (s.sp.toNat + 1) } (BitVec.ofNat 16 (256 + (s.sp.toNat + 1) % 256)) ∧
    StoresAt (BitVec.ofNat 16 (256 + s.sp.toNat)) v s s (push v s) ∧
    Registers (push v s) s.a s.x s.y (BitVec.ofNat 8 (s.sp.toNat + 255)) s.pc s.p ∧ SameEngine s (push v s) ∧
    (pull s).1 = (memRead s (BitVec.ofNat 16 (256 + (s.sp.toNat + 1) % 256))).1 ∧
    Registers (pull s).2 s.a s.x s.y (BitVec.ofNat 8 (s.sp.toNat + 1)) s.pc s.p ∧ SameEngine s (pull s).2 ∧
    StoresNothing s (pull s).2 ∧
    (RamAt s.devices (stackAddr s.sp) → (pull (push v s)).1 = v ∧ (pull (push v s)).2.sp = s.sp)

/-- Operand resolution (R95, R62, R96, R97) in numbers: the byte each operand form loads, and each mode's effective address, with the
zero-page wrap mod 256, the 16-bit wrap mod 65536, the pointer's second byte in page zero, and the Indirect mode's second byte in the
pointer's own page. -/
def Obligations.OperandResolution : Prop :=
  ∀ (s : State) (z d : Byte) (a : Addr),
    effectiveAddress (.zeroPage z) s = (BitVec.ofNat 16 z.toNat, s) ∧
    effectiveAddress (.zeroPageX z) s = (BitVec.ofNat 16 ((z.toNat + s.x.toNat) % 256), s) ∧
    effectiveAddress (.zeroPageY z) s = (BitVec.ofNat 16 ((z.toNat + s.y.toNat) % 256), s) ∧
    effectiveAddress (.absolute a) s = (a, s) ∧
    effectiveAddress (.absoluteX a) s = (BitVec.ofNat 16 (a.toNat + s.x.toNat), s) ∧
    effectiveAddress (.absoluteY a) s = (BitVec.ofNat 16 (a.toNat + s.y.toNat), s) ∧
    (∃ lo hi, lo = memRead s (BitVec.ofNat 16 ((z.toNat + s.x.toNat) % 256)) ∧
      hi = memRead lo.2 (BitVec.ofNat 16 ((z.toNat + s.x.toNat + 1) % 256)) ∧
      effectiveAddress (.indexedIndirectX z) s = (BitVec.ofNat 16 (256 * hi.1.toNat + lo.1.toNat), hi.2)) ∧
    (∃ lo hi, lo = memRead s (BitVec.ofNat 16 z.toNat) ∧
      hi = memRead lo.2 (BitVec.ofNat 16 ((z.toNat + 1) % 256)) ∧
      effectiveAddress (.indirectIndexedY z) s =
        (BitVec.ofNat 16 (256 * hi.1.toNat + lo.1.toNat + s.y.toNat), hi.2)) ∧
    (∃ lo hi, lo = memRead s a ∧
      hi = memRead lo.2 (BitVec.ofNat 16 (256 * (a.toNat / 256) + (a.toNat + 1) % 256)) ∧
      indirectTarget a s = (BitVec.ofNat 16 (256 * hi.1.toNat + lo.1.toNat), hi.2)) ∧
    (∃ lo hi, lo = memRead s a ∧ hi = memRead lo.2 (BitVec.ofNat 16 (a.toNat + 1)) ∧
      readWord s a = (BitVec.ofNat 16 (256 * hi.1.toNat + lo.1.toNat), hi.2)) ∧
    branchTarget d s = displaced s.pc d ∧
    load (.immediate z) s = (z, s) ∧
    (∀ m : Mem,
      load (.mem m) s = memRead (effectiveAddress m s).2 (effectiveAddress m s).1 ∧
      loadMem m s = memRead (effectiveAddress m s).2 (effectiveAddress m s).1)

/-- The status byte (R25, R26, R39): bit by bit; bit 5 reads 1 whatever the flags; reading back ignores bit 5 and takes B from bit 4. -/
def Obligations.StatusByteBits : Prop :=
  ∀ (p : Status) (b4 : Bool) (v : Byte),
    (serialize p b4).toNat =
      128 * p.n.toNat + 64 * p.v.toNat + 32 + 16 * b4.toNat + 8 * p.d.toNat + 4 * p.i.toNat + 2 * p.z.toNat + p.c.toNat ∧
    deserialize (serialize p b4) = { p with b := b4 } ∧
    serialize (deserialize v) (v.getLsbD 4) = v ||| 0x20 ∧
    deserialize (v ^^^ 0x20) = deserialize v

/-! ## The instructions -/

/-- LDA, LDX and LDY (R131 to R133) in every form: the register takes the operand's byte, N and Z follow it, nothing else changes. -/
def Obligations.LoadInstructions : Prop :=
  ∀ (src : Src) (s : State),
    let m := load src s
    (∃ t, exec (.lda src) s = .next t ∧ Registers t m.1 s.x s.y s.sp s.pc (nz m.1 s.p) ∧
      SameEngine s t ∧ ReadsOnly m.2 s t) ∧
    (∃ t, exec (.ldx src) s = .next t ∧ Registers t s.a m.1 s.y s.sp s.pc (nz m.1 s.p) ∧
      SameEngine s t ∧ ReadsOnly m.2 s t) ∧
    (∃ t, exec (.ldy src) s = .next t ∧ Registers t s.a s.x m.1 s.sp s.pc (nz m.1 s.p) ∧
      SameEngine s t ∧ ReadsOnly m.2 s t)

/-- STA, STX, STY and STZ (R134 to R137) in every form: the byte is stored at the effective address, which is not read; no register or
flag changes. -/
def Obligations.StoreInstructions : Prop :=
  ∀ (dst : Mem) (s : State),
    let ea := effectiveAddress dst s
    ∀ (i : Instr) (v : Byte),
      (i = .sta dst ∧ v = s.a) ∨ (i = .stx dst ∧ v = s.x) ∨ (i = .sty dst ∧ v = s.y) ∨ (i = .stz dst ∧ v = 0) →
      ∃ t, exec i s = .next t ∧ Registers t s.a s.x s.y s.sp s.pc s.p ∧ SameEngine s t ∧
        StoresAt ea.1 v s ea.2 t

/-- The register transfers (R150 to R155): the destination, N and Z; TXS writes no flag. -/
def Obligations.TransferInstructions : Prop :=
  ∀ s : State,
    (∃ t, exec .tax s = .next t ∧ Registers t s.a s.a s.y s.sp s.pc (nz s.a s.p) ∧ SameEngine s t ∧ ReadsOnly s s t) ∧
    (∃ t, exec .tay s = .next t ∧ Registers t s.a s.x s.a s.sp s.pc (nz s.a s.p) ∧ SameEngine s t ∧ ReadsOnly s s t) ∧
    (∃ t, exec .txa s = .next t ∧ Registers t s.x s.x s.y s.sp s.pc (nz s.x s.p) ∧ SameEngine s t ∧ ReadsOnly s s t) ∧
    (∃ t, exec .tya s = .next t ∧ Registers t s.y s.x s.y s.sp s.pc (nz s.y s.p) ∧ SameEngine s t ∧ ReadsOnly s s t) ∧
    (∃ t, exec .tsx s = .next t ∧ Registers t s.a s.sp s.y s.sp s.pc (nz s.sp s.p) ∧ SameEngine s t ∧ ReadsOnly s s t) ∧
    (∃ t, exec .txs s = .next t ∧ Registers t s.a s.x s.y s.x s.pc s.p ∧ SameEngine s t ∧ ReadsOnly s s t)

/-- The pushes (R156, R157, R160, R161): the byte at the stack address, SP lowered; PHP pushes the flags with bits 5 and 4 set and
leaves them. -/
def Obligations.PushInstructions : Prop :=
  ∀ (s : State) (i : Instr) (v : Byte),
    (i = .pha ∧ v = s.a) ∨ (i = .phx ∧ v = s.x) ∨ (i = .phy ∧ v = s.y) ∨
      (i = .php ∧ v.toNat =
        128 * s.p.n.toNat + 64 * s.p.v.toNat + 48 + 8 * s.p.d.toNat + 4 * s.p.i.toNat + 2 * s.p.z.toNat + s.p.c.toNat) →
    ∃ t, exec i s = .next t ∧ Registers t s.a s.x s.y (s.sp - 1) s.pc s.p ∧ SameEngine s t ∧
      StoresAt (stackAddr s.sp) v s s t

/-- The pulls (R158, R159, R162, R163): SP raised, the byte at the new stack address; PLP takes every flag, B from bit 4. -/
def Obligations.PullInstructions : Prop :=
  ∀ s : State,
    let m := memRead s (stackAddr (s.sp + 1))
    (∃ t, exec .pla s = .next t ∧ Registers t m.1 s.x s.y (s.sp + 1) s.pc (nz m.1 s.p) ∧ SameEngine s t ∧ ReadsOnly m.2 s t) ∧
    (∃ t, exec .plx s = .next t ∧ Registers t s.a m.1 s.y (s.sp + 1) s.pc (nz m.1 s.p) ∧ SameEngine s t ∧ ReadsOnly m.2 s t) ∧
    (∃ t, exec .ply s = .next t ∧ Registers t s.a s.x m.1 (s.sp + 1) s.pc (nz m.1 s.p) ∧ SameEngine s t ∧ ReadsOnly m.2 s t) ∧
    (∃ t, exec .plp s = .next t ∧
      Registers t s.a s.x s.y (s.sp + 1) s.pc
        { n := m.1.getLsbD 7, v := m.1.getLsbD 6, b := m.1.getLsbD 4, d := m.1.getLsbD 3,
          i := m.1.getLsbD 2, z := m.1.getLsbD 1, c := m.1.getLsbD 0 } ∧
      SameEngine s t ∧ ReadsOnly m.2 s t)

/-- ADC with D clear (R170, R171): A is the sum mod 256, C its bit 8, V set exactly when the signed sum is out of range, N and Z of the
result; nothing else changes. -/
def Obligations.AddBinary : Prop :=
  ∀ (src : Src) (s : State), s.p.d = false →
    let m := load src s
    let sum := s.a.toNat + m.1.toNat + s.p.c.toNat
    let signed := s.a.toInt + m.1.toInt + (s.p.c.toNat : Int)
    ∃ t, exec (.adc src) s = .next t ∧
      Registers t (BitVec.ofNat 8 sum) s.x s.y s.sp s.pc
        (nz (BitVec.ofNat 8 sum) { s.p with c := decide (256 ≤ sum), v := decide (signed < -128 ∨ 127 < signed) }) ∧
      SameEngine s t ∧ ReadsOnly m.2 s t

/-- ADC with D set (R172, R173), for every pair of bytes: the nibble-wise correction, C from the corrected sum, V from the signed sum
of the high nibbles with the corrected low nibble, N and Z of the corrected result. On decimal operands it is decimal addition. The
decimal V, and the results for a nibble above 9, rest on the spec's own decision D14, as U21 of 93_implementation_defined.md asks a
claim to say (log entry 17). -/
def Obligations.AddDecimal : Prop :=
  ∀ (src : Src) (s : State), s.p.d = true →
    let m := load src s
    let al0 := s.a.toNat % 16 + m.1.toNat % 16 + s.p.c.toNat
    let al := if 10 ≤ al0 then (al0 + 6) % 16 + 16 else al0
    let s0 := 16 * (s.a.toNat / 16) + 16 * (m.1.toNat / 16) + al
    let sum := if 160 ≤ s0 then s0 + 96 else s0
    let signed := 16 * (s.a.toInt / 16) + 16 * (m.1.toInt / 16) + (al : Int)
    ∃ t r, exec (.adc src) s = .next t ∧ r = BitVec.ofNat 8 sum ∧
      Registers t r s.x s.y s.sp s.pc
        (nz r { s.p with c := decide (256 ≤ sum), v := decide (signed < -128 ∨ 127 < signed) }) ∧
      SameEngine s t ∧ ReadsOnly m.2 s t ∧
      (IsDecimal s.a → IsDecimal m.1 →
        IsDecimal r ∧ decimalValue r + 100 * t.p.c.toNat = decimalValue s.a + decimalValue m.1 + s.p.c.toNat)

/-- SBC with D clear (R174): A is the difference less the borrow mod 256, C set exactly when there is no borrow, V set exactly when the
signed difference is out of range, N and Z of the result. -/
def Obligations.SubtractBinary : Prop :=
  ∀ (src : Src) (s : State), s.p.d = false →
    let m := load src s
    let diff : Int := (s.a.toNat : Int) - m.1.toNat - (1 - s.p.c.toNat)
    let signed := s.a.toInt - m.1.toInt - (1 - (s.p.c.toNat : Int))
    ∃ t, exec (.sbc src) s = .next t ∧
      Registers t (BitVec.ofInt 8 diff) s.x s.y s.sp s.pc
        (nz (BitVec.ofInt 8 diff) { s.p with c := decide (0 ≤ diff), v := decide (signed < -128 ∨ 127 < signed) }) ∧
      SameEngine s t ∧ ReadsOnly m.2 s t

/-- SBC with D set (R175), for every pair of bytes: the nibble-wise correction; C and V from the binary subtraction; N and Z of the
corrected result. On decimal operands it is decimal subtraction. The sequence, its C and V, and the results for a nibble above 9 rest on
the spec's own decision D15, as U21 of 93_implementation_defined.md asks a claim to say (log entry 17). -/
def Obligations.SubtractDecimal : Prop :=
  ∀ (src : Src) (s : State), s.p.d = true →
    let m := load src s
    let diff : Int := (s.a.toNat : Int) - m.1.toNat - (1 - s.p.c.toNat)
    let signed := s.a.toInt - m.1.toInt - (1 - (s.p.c.toNat : Int))
    let al0 : Int := (s.a.toNat % 16 : Nat) - (m.1.toNat % 16 : Nat) + (s.p.c.toNat : Int) - 1
    let al := if al0 < 0 then (al0 - 6) % 16 - 16 else al0
    let t0 : Int := 16 * (s.a.toNat / 16 : Nat) - 16 * (m.1.toNat / 16 : Nat) + al
    let corrected := if t0 < 0 then t0 - 96 else t0
    ∃ t r, exec (.sbc src) s = .next t ∧ r = BitVec.ofInt 8 corrected ∧
      Registers t r s.x s.y s.sp s.pc
        (nz r { s.p with c := decide (0 ≤ diff), v := decide (signed < -128 ∨ 127 < signed) }) ∧
      SameEngine s t ∧ ReadsOnly m.2 s t ∧
      (IsDecimal s.a → IsDecimal m.1 →
        IsDecimal r ∧
        (decimalValue r : Int) =
          decimalValue s.a - decimalValue m.1 - (1 - s.p.c.toNat) + 100 * (1 - t.p.c.toNat))

/-- CMP, CPX and CPY (R176 to R178): C when the register is not below the operand, Z when equal, N bit 7 of the difference; V, D and
every register unchanged, in decimal mode too. -/
def Obligations.CompareInstructions : Prop :=
  ∀ (src : Src) (s : State) (i : Instr) (reg : Byte),
    (i = .cmp src ∧ reg = s.a) ∨ (i = .cpx src ∧ reg = s.x) ∨ (i = .cpy src ∧ reg = s.y) →
    let m := load src s
    ∃ t, exec i s = .next t ∧
      Registers t s.a s.x s.y s.sp s.pc
        { s.p with
          c := decide (m.1.toNat ≤ reg.toNat)
          z := decide (reg.toNat = m.1.toNat)
          n := decide (128 ≤ (reg.toNat + 256 - m.1.toNat) % 256) } ∧
      SameEngine s t ∧ ReadsOnly m.2 s t

/-- INC and DEC of memory (R179, R180, R96): the byte at the effective address is read once and written once, wrapping mod 256; N and Z
follow it; D has no effect. -/
def Obligations.IncrementMemory : Prop :=
  ∀ (dst : Mem) (s : State),
    let ea := effectiveAddress dst s
    let m := memRead ea.2 ea.1
    ∀ (i : Instr) (r : Byte),
      (i = .inc dst ∧ r = BitVec.ofNat 8 (m.1.toNat + 1)) ∨ (i = .dec dst ∧ r = BitVec.ofNat 8 (m.1.toNat + 255)) →
      ∃ t, exec i s = .next t ∧ Registers t s.a s.x s.y s.sp s.pc (nz r s.p) ∧ SameEngine s t ∧
        StoresAt ea.1 r s m.2 t

/-- INX, INY, DEX, DEY, INC A and DEC A (R181 to R186): the register wraps mod 256; N and Z follow it. -/
def Obligations.IncrementRegisters : Prop :=
  ∀ s : State,
    let up := fun v : Byte => BitVec.ofNat 8 (v.toNat + 1)
    let down := fun v : Byte => BitVec.ofNat 8 (v.toNat + 255)
    (∃ t, exec .inx s = .next t ∧ Registers t s.a (up s.x) s.y s.sp s.pc (nz (up s.x) s.p) ∧ SameEngine s t ∧ ReadsOnly s s t) ∧
    (∃ t, exec .iny s = .next t ∧ Registers t s.a s.x (up s.y) s.sp s.pc (nz (up s.y) s.p) ∧ SameEngine s t ∧ ReadsOnly s s t) ∧
    (∃ t, exec .dex s = .next t ∧ Registers t s.a (down s.x) s.y s.sp s.pc (nz (down s.x) s.p) ∧ SameEngine s t ∧ ReadsOnly s s t) ∧
    (∃ t, exec .dey s = .next t ∧ Registers t s.a s.x (down s.y) s.sp s.pc (nz (down s.y) s.p) ∧ SameEngine s t ∧ ReadsOnly s s t) ∧
    (∃ t, exec .incA s = .next t ∧ Registers t (up s.a) s.x s.y s.sp s.pc (nz (up s.a) s.p) ∧ SameEngine s t ∧ ReadsOnly s s t) ∧
    (∃ t, exec .decA s = .next t ∧ Registers t (down s.a) s.x s.y s.sp s.pc (nz (down s.a) s.p) ∧ SameEngine s t ∧ ReadsOnly s s t)

/-- AND, ORA and EOR (R200 to R202) bit by bit; N and Z follow the result. -/
def Obligations.LogicalInstructions : Prop :=
  ∀ (src : Src) (s : State) (i : Instr) (f : Bool → Bool → Bool),
    (i = .and src ∧ f = and) ∨ (i = .ora src ∧ f = or) ∨ (i = .eor src ∧ f = xor) →
    let m := load src s
    ∃ t r, exec i s = .next t ∧ (∀ k : Nat, k < 8 → r.getLsbD k = f (s.a.getLsbD k) (m.1.getLsbD k)) ∧
      Registers t r s.x s.y s.sp s.pc (nz r s.p) ∧ SameEngine s t ∧ ReadsOnly m.2 s t

/-- BIT (R203) and BIT # (R204): Z when A and the operand share no 1; BIT copies bits 7 and 6 to N and V, BIT # leaves them. -/
def Obligations.BitTestInstructions : Prop :=
  ∀ s : State,
    (∀ src : Mem,
      let m := loadMem src s
      ∃ t, exec (.bit src) s = .next t ∧
        (t.p.z = true ↔ ∀ k : Nat, k < 8 → ¬(s.a.getLsbD k = true ∧ m.1.getLsbD k = true)) ∧
        Registers t s.a s.x s.y s.sp s.pc { s.p with z := t.p.z, n := m.1.getLsbD 7, v := m.1.getLsbD 6 } ∧
        SameEngine s t ∧ ReadsOnly m.2 s t) ∧
    (∀ v : Byte,
      ∃ t, exec (.bitImmediate v) s = .next t ∧
        (t.p.z = true ↔ ∀ k : Nat, k < 8 → ¬(s.a.getLsbD k = true ∧ v.getLsbD k = true)) ∧
        Registers t s.a s.x s.y s.sp s.pc { s.p with z := t.p.z } ∧ SameEngine s t ∧ ReadsOnly s s t)

/-- The shifts and rotates (R205 to R208) in numbers, on the accumulator and on memory: the result, the bit shifted out in C, the old
carry shifted in by the rotates, N and Z of the result. -/
def Obligations.ShiftInstructions : Prop :=
  ∀ (s : State) (mk : Rmw → Instr) (f : Byte → Byte × Bool),
    (mk = .asl ∧ f = (fun v => (BitVec.ofNat 8 (2 * v.toNat), decide (128 ≤ v.toNat)))) ∨
    (mk = .lsr ∧ f = (fun v => (BitVec.ofNat 8 (v.toNat / 2), decide (v.toNat % 2 = 1)))) ∨
    (mk = .rol ∧ f = (fun v => (BitVec.ofNat 8 (2 * v.toNat + s.p.c.toNat), decide (128 ≤ v.toNat)))) ∨
    (mk = .ror ∧ f = (fun v => (BitVec.ofNat 8 (v.toNat / 2 + 128 * s.p.c.toNat), decide (v.toNat % 2 = 1)))) →
    (∃ t, exec (mk .accumulator) s = .next t ∧
      Registers t (f s.a).1 s.x s.y s.sp s.pc (nz (f s.a).1 { s.p with c := (f s.a).2 }) ∧
      SameEngine s t ∧ ReadsOnly s s t) ∧
    (∀ dst : Mem,
      let ea := effectiveAddress dst s
      let m := memRead ea.2 ea.1
      ∃ t, exec (mk (.mem dst)) s = .next t ∧
        Registers t s.a s.x s.y s.sp s.pc (nz (f m.1).1 { s.p with c := (f m.1).2 }) ∧
        SameEngine s t ∧ StoresAt ea.1 (f m.1).1 s m.2 t)

/-- TSB and TRB (R209, R210), RMBn and SMBn (R211, R212) bit by bit: the byte is read once and written once; Z of the test from the
value before the write; RMBn and SMBn write no flag. -/
def Obligations.BitManipulation : Prop :=
  ∀ s : State,
    (∀ (dst : Mem) (i : Instr) (f : Bool → Bool → Bool),
      (i = .tsb dst ∧ f = (fun m a => m || a)) ∨ (i = .trb dst ∧ f = (fun m a => m && !a)) →
      let ea := effectiveAddress dst s
      let m := memRead ea.2 ea.1
      ∃ t w, exec i s = .next t ∧ (∀ k : Nat, k < 8 → w.getLsbD k = f (m.1.getLsbD k) (s.a.getLsbD k)) ∧
        (t.p.z = true ↔ ∀ k : Nat, k < 8 → ¬(s.a.getLsbD k = true ∧ m.1.getLsbD k = true)) ∧
        Registers t s.a s.x s.y s.sp s.pc { s.p with z := t.p.z } ∧ SameEngine s t ∧ StoresAt ea.1 w s m.2 t) ∧
    (∀ (n : Fin 8) (z : Byte) (i : Instr) (level : Bool),
      (i = rmb n z ∧ level = false) ∨ (i = smb n z ∧ level = true) →
      let ea := BitVec.ofNat 16 z.toNat
      let m := memRead s ea
      ∃ t w, exec i s = .next t ∧ (∀ k : Nat, k < 8 → w.getLsbD k = if k = n.val then level else m.1.getLsbD k) ∧
        Registers t s.a s.x s.y s.sp s.pc s.p ∧ SameEngine s t ∧ StoresAt ea w s m.2 t)

/-- The conditional branches and BRA (R230 to R239): PC is the displaced address when the condition holds and else stays at the next
instruction; nothing else changes, not even the cycles charged. -/
def Obligations.BranchInstructions : Prop :=
  ∀ (s : State) (d : Byte) (i : Instr) (cond : Bool),
    (i = .bpl d ∧ cond = !s.p.n) ∨ (i = .bmi d ∧ cond = s.p.n) ∨ (i = .bvc d ∧ cond = !s.p.v) ∨
    (i = .bvs d ∧ cond = s.p.v) ∨ (i = .bcc d ∧ cond = !s.p.c) ∨ (i = .bcs d ∧ cond = s.p.c) ∨
    (i = .bne d ∧ cond = !s.p.z) ∨ (i = .beq d ∧ cond = s.p.z) ∨ (i = .bra d ∧ cond = true) →
    ∃ t, exec i s = .next t ∧
      Registers t s.a s.x s.y s.sp (if cond = true then displaced s.pc d else s.pc) s.p ∧
      SameEngine s t ∧ ReadsOnly s s t

/-- BBRn and BBSn (R243, R244): bit n of the zero-page byte decides; the byte is read either way. -/
def Obligations.BitBranchInstructions : Prop :=
  ∀ (s : State) (n : Fin 8) (z d : Byte) (i : Instr) (level : Bool),
    (i = bbr n z d ∧ level = false) ∨ (i = bbs n z d ∧ level = true) →
    let m := memRead s (BitVec.ofNat 16 z.toNat)
    ∃ t, exec i s = .next t ∧
      Registers t s.a s.x s.y s.sp (if m.1.getLsbD n.val = level then displaced s.pc d else s.pc) s.p ∧
      SameEngine s t ∧ ReadsOnly m.2 s t

/-- JMP, JSR and RTS (R240 to R242): the target; JSR pushes the address of its last byte, high byte first; RTS pulls it and adds 1. -/
def Obligations.JumpInstructions : Prop :=
  ∀ (s : State) (target : Addr),
    (∃ t, exec (.jmp target) s = .next t ∧ Registers t s.a s.x s.y s.sp target s.p ∧ SameEngine s t ∧ ReadsOnly s s t) ∧
    (∃ t, exec (.jmpIndirect target) s = .next t ∧
      Registers t s.a s.x s.y s.sp (indirectTarget target s).1 s.p ∧ SameEngine s t ∧ ReadsOnly (indirectTarget target s).2 s t) ∧
    (∃ t, exec (.jsr target) s = .next t ∧ Registers t s.a s.x s.y (s.sp - 2) target s.p ∧ SameEngine s t ∧
      (∀ a, a ≠ stackAddr s.sp → a ≠ stackAddr (s.sp - 1) → memoryByte t.devices a = memoryByte s.devices a) ∧
      (RamAt s.devices (stackAddr s.sp) →
        memoryByte t.devices (stackAddr s.sp) = some (BitVec.ofNat 8 ((s.pc.toNat + 65535) % 65536 / 256))) ∧
      (RamAt s.devices (stackAddr (s.sp - 1)) →
        memoryByte t.devices (stackAddr (s.sp - 1)) = some (BitVec.ofNat 8 ((s.pc.toNat + 65535) % 256))) ∧
      SameSide (push (loByte (s.pc - 1)) (push (hiByte (s.pc - 1)) s)) t) ∧
    (∃ t lo hi, exec .rts s = .next t ∧ lo = memRead s (stackAddr (s.sp + 1)) ∧
      hi = memRead lo.2 (stackAddr (s.sp + 2)) ∧
      Registers t s.a s.x s.y (s.sp + 2) (BitVec.ofNat 16 (256 * hi.1.toNat + lo.1.toNat + 1)) s.p ∧
      SameEngine s t ∧ ReadsOnly hi.2 s t)

/-- A subroutine returns (R241, R242): on a stack in RAM, RTS after JSR resumes at the instruction after the JSR with SP restored. -/
def Obligations.SubroutineReturns : Prop :=
  ∀ (s : State) (target : Addr), RamAt s.devices (stackAddr s.sp) → RamAt s.devices (stackAddr (s.sp - 1)) →
    ∃ t u, exec (.jsr target) s = .next t ∧ t.pc = target ∧ exec .rts t = .next u ∧
      Registers u s.a s.x s.y s.sp s.pc s.p

/-- BRK (R260): the pushed address is one past PC (the padding byte skipped), the pushed status has bits 5 and 4 set and I as before;
I is set, D and B are kept, PC is the word at the IRQ vector; the latches, the devices and the host's side are as the three pushes and
the vector's two reads leave them. -/
def Obligations.BreakInstruction : Prop :=
  ∀ s : State,
    ∃ t pushed, exec .brk s = .next t ∧
      pushed = push (serialize s.p true) (push (loByte (s.pc + 1)) (push (hiByte (s.pc + 1)) s)) ∧
      Registers t s.a s.x s.y (s.sp - 3) (readWord pushed s.cfg.irqVec).1 { s.p with i := true } ∧
      SameEngine s t ∧ SameSide (readWord pushed s.cfg.irqVec).2 t ∧
      (∀ a, a ≠ stackAddr s.sp → a ≠ stackAddr (s.sp - 1) → a ≠ stackAddr (s.sp - 2) →
        memoryByte t.devices a = memoryByte s.devices a) ∧
      (RamAt s.devices (stackAddr s.sp) →
        memoryByte t.devices (stackAddr s.sp) = some (BitVec.ofNat 8 ((s.pc.toNat + 1) % 65536 / 256))) ∧
      (RamAt s.devices (stackAddr (s.sp - 1)) →
        memoryByte t.devices (stackAddr (s.sp - 1)) = some (BitVec.ofNat 8 (s.pc.toNat + 1))) ∧
      (RamAt s.devices (stackAddr (s.sp - 2)) →
        ∃ byte, memoryByte t.devices (stackAddr (s.sp - 2)) = some byte ∧
          byte.getLsbD 4 = true ∧ byte.getLsbD 5 = true ∧ byte.getLsbD 2 = s.p.i ∧
          deserialize byte = { s.p with b := true })

/-- RTI (R261): status, PC low, PC high are pulled in that order; B is forced to 1; PC is not incremented. -/
def Obligations.ReturnFromInterrupt : Prop :=
  ∀ s : State,
    ∃ t st lo hi, exec .rti s = .next t ∧ st = memRead s (stackAddr (s.sp + 1)) ∧
      lo = memRead st.2 (stackAddr (s.sp + 2)) ∧ hi = memRead lo.2 (stackAddr (s.sp + 3)) ∧
      Registers t s.a s.x s.y (s.sp + 3) (BitVec.ofNat 16 (256 * hi.1.toNat + lo.1.toNat))
        { n := st.1.getLsbD 7, v := st.1.getLsbD 6, b := true, d := st.1.getLsbD 3,
          i := st.1.getLsbD 2, z := st.1.getLsbD 1, c := st.1.getLsbD 0 } ∧
      SameEngine s t ∧ ReadsOnly hi.2 s t

/-- A handler returns (R313): on a stack in RAM, RTI after an interrupt's entry resumes at the interrupted PC with SP and every flag
restored, but for B, which reads 1. -/
def Obligations.InterruptReturns : Prop :=
  ∀ (s : State) (kind : InterruptKind),
    RamAt s.devices (stackAddr s.sp) → RamAt s.devices (stackAddr (s.sp - 1)) → RamAt s.devices (stackAddr (s.sp - 2)) →
    ∃ t, exec .rti (serviceInterrupt kind s) = .next t ∧
      Registers t s.a s.x s.y s.sp s.pc { s.p with b := true }

/-- The flag instructions (R262 to R268) write one flag each; NOP (R269) writes nothing; WAI and STP (R270, R271) set the run state only. -/
def Obligations.FlagAndWaitInstructions : Prop :=
  ∀ s : State,
    (∀ (i : Instr) (p : Status),
      (i = .clc ∧ p = { s.p with c := false }) ∨ (i = .sec ∧ p = { s.p with c := true }) ∨
      (i = .cli ∧ p = { s.p with i := false }) ∨ (i = .sei ∧ p = { s.p with i := true }) ∨
      (i = .cld ∧ p = { s.p with d := false }) ∨ (i = .sed ∧ p = { s.p with d := true }) ∨
      (i = .clv ∧ p = { s.p with v := false }) ∨ (i = .nop ∧ p = s.p) →
      ∃ t, exec i s = .next t ∧ Registers t s.a s.x s.y s.sp s.pc p ∧ SameEngine s t ∧ ReadsOnly s s t) ∧
    (∀ (i : Instr) (r : RunState), (i = .wai ∧ r = .waiting) ∨ (i = .stp ∧ r = .stopped) →
      ∃ t, exec i s = .next t ∧ t.runState = r ∧ Registers t s.a s.x s.y s.sp s.pc s.p ∧
        SameEngine s { t with runState := s.runState } ∧ ReadsOnly s s t)

/-- No instruction faults once dispatched (R130), and none touches the engine (R29, R41): every instruction answers a next state with
the configuration, the counters and the call count as before; a latch is as before or filled by a device of R308 that the instruction
reads or writes (R73); only WAI and STP change the run state and only the fault slots the fault record. -/
def Obligations.EveryInstructionCompletes : Prop :=
  ∀ (i : Instr) (s : State),
    ∃ t, exec i s = .next t ∧ t.cfg = s.cfg ∧ t.instrCycles = s.instrCycles ∧ t.totalCycles = s.totalCycles ∧
      LatchFrom s.devices t.devices s.nmiPending t.nmiPending ∧ LatchFrom s.devices t.devices s.irqPending t.irqPending ∧
      t.clockCalls = s.clockCalls ∧
      (i ≠ .wai → i ≠ .stp → t.runState = s.runState) ∧
      ((∀ op, i ≠ .jam op ∧ i ≠ .notImplemented op) → t.fault = s.fault)

/-- Only the instructions the spec lists write each register and each flag (R21 to R23, R33 to R38), store to memory (R96) or replace
PC: every other instruction leaves it. -/
def Obligations.OnlyListedInstructionsWrite : Prop :=
  ∀ (i : Instr) (s t : State), exec i s = .next t →
    (writesA i = false → t.a = s.a) ∧ (writesX i = false → t.x = s.x) ∧ (writesY i = false → t.y = s.y) ∧
    (writesSP i = false → t.sp = s.sp) ∧ (writesPC i = false → t.pc = s.pc) ∧
    (writesC i = false → t.p.c = s.p.c) ∧ (writesZ i = false → t.p.z = s.p.z) ∧ (writesN i = false → t.p.n = s.p.n) ∧
    (writesV i = false → t.p.v = s.p.v) ∧ (writesD i = false → t.p.d = s.p.d) ∧ (writesI i = false → t.p.i = s.p.i) ∧
    (writesB i = false → t.p.b = s.p.b) ∧ (writesMemory i = false → StoresNothing s t)
end

