-- ==== Sys2Proof/Laws/Memory.lean ====
section
/-!
SUPPORT. The contents of a memory device: read after write, and the canonical form every write keeps.
-/

namespace Sys2Proof.Machine

@[simp] theorem Memory.read_nil (a : Nat) : Memory.read [] a = Memory.unlisted := rfl

theorem Memory.read_cons (k : Nat) (w : Byte) (m : Memory) (a : Nat) :
    Memory.read ((k, w) :: m) a = if k = a then w else m.read a := rfl

theorem Memory.above_cons (k j : Nat) (w : Byte) (m : Memory) :
    Memory.above k ((j, w) :: m) = true ↔ k < j ∧ Memory.above k m = true := by
  simp [Memory.above]

theorem Memory.wf_cons {k : Nat} {w : Byte} {m : Memory} :
    Memory.wf ((k, w) :: m) = true ↔ w ≠ Memory.unlisted ∧ Memory.above k m = true ∧ m.wf = true := by
  simp [Memory.wf, and_assoc]

/-- Contents that start above `a` do not list `a`. -/
theorem Memory.read_above {a : Nat} {m : Memory} (h : Memory.above a m = true) : m.read a = Memory.unlisted := by
  induction m with
  | nil => rfl
  | cons c rest ih =>
    obtain ⟨k, w⟩ := c
    obtain ⟨hk, hrest⟩ := (Memory.above_cons a k w rest).1 h
    simp [Memory.read_cons, show k ≠ a by omega, ih hrest]

/-- Contents above a larger key are above a smaller one. -/
theorem Memory.above_mono {j k : Nat} {m : Memory} (h : Memory.above k m = true) (hjk : j ≤ k) :
    Memory.above j m = true := by
  simp only [Memory.above, List.all_eq_true, decide_eq_true_eq] at *
  intro c hc
  exact Nat.lt_of_le_of_lt hjk (h c hc)

theorem Memory.above_erase {k : Nat} {m : Memory} (a : Nat) (h : Memory.above k m = true) :
    Memory.above k (m.erase a) = true := by
  simp only [Memory.above, Memory.erase, List.all_eq_true] at *
  exact fun c hc => h c (List.mem_filter.1 hc).1

theorem Memory.erase_cons (k : Nat) (w : Byte) (m : Memory) (a : Nat) :
    Memory.erase ((k, w) :: m) a = if k = a then m.erase a else (k, w) :: m.erase a := by
  by_cases h : k = a <;> simp [Memory.erase, h]

theorem Memory.read_erase (m : Memory) (a b : Nat) :
    (m.erase a).read b = if b = a then Memory.unlisted else m.read b := by
  induction m with
  | nil => simp [Memory.erase]
  | cons c rest ih =>
    obtain ⟨k, w⟩ := c
    rw [Memory.erase_cons]
    by_cases hb : b = a
    · subst hb
      split <;> simp_all [Memory.read_cons]
    · have hab : a ≠ b := Ne.symm hb
      split <;> simp_all [Memory.read_cons]

theorem Memory.wf_erase {m : Memory} (a : Nat) (h : m.wf = true) : (m.erase a).wf = true := by
  induction m with
  | nil => rfl
  | cons c rest ih =>
    obtain ⟨k, w⟩ := c
    obtain ⟨hw, habove, hrest⟩ := Memory.wf_cons.1 h
    rw [Memory.erase_cons]
    split
    · exact ih hrest
    · exact Memory.wf_cons.2 ⟨hw, Memory.above_erase a habove, ih hrest⟩

/-- Reading after an insertion among entries that do not list the address. -/
theorem Memory.read_insert_erase (m : Memory) (a b : Nat) (v : Byte) :
    ((m.erase a).insert a v).read b = if b = a then v else m.read b := by
  induction m with
  | nil => simp [Memory.erase, Memory.insert, Memory.read_cons, eq_comm]
  | cons c rest ih =>
    obtain ⟨k, w⟩ := c
    rw [Memory.erase_cons]
    split
    · rename_i hk
      rw [ih, Memory.read_cons]
      by_cases hb : b = a
      · simp [hb]
      · simp [hb, hk, Ne.symm hb]
    · rename_i hk
      unfold Memory.insert
      split
      · simp only [Memory.read_cons, Memory.read_erase]
        by_cases h : b = a
        · simp [h]
        · simp [h, Ne.symm h]
      · simp only [Memory.read_cons, ih]
        by_cases h : b = a <;> simp [h, hk]

theorem Memory.wf_insert_erase {m : Memory} (a : Nat) (v : Byte) (hv : v ≠ Memory.unlisted) (h : m.wf = true) :
    ((m.erase a).insert a v).wf = true ∧
      ∀ k, Memory.above k m = true → k < a → Memory.above k ((m.erase a).insert a v) = true := by
  induction m with
  | nil => simp [Memory.erase, Memory.insert, Memory.wf, Memory.above, hv]
  | cons c rest ih =>
    obtain ⟨j, w⟩ := c
    obtain ⟨hw, habove, hrest⟩ := Memory.wf_cons.1 h
    rw [Memory.erase_cons]
    split
    · refine ⟨(ih hrest).1, fun k hk hka => (ih hrest).2 k ((Memory.above_cons _ _ _ _).1 hk).2 hka⟩
    · unfold Memory.insert
      split
      · rename_i haj
        have hb := Memory.above_erase a habove
        refine ⟨Memory.wf_cons.2 ⟨hv, (Memory.above_cons _ _ _ _).2 ⟨haj, Memory.above_mono hb (by omega)⟩,
          Memory.wf_cons.2 ⟨hw, hb, Memory.wf_erase a hrest⟩⟩, fun k hk hka => ?_⟩
        obtain ⟨hkj, hkrest⟩ := (Memory.above_cons _ _ _ _).1 hk
        simp [Memory.above_cons, hka, hkj, Memory.above_erase a hkrest]
      · refine ⟨Memory.wf_cons.2 ⟨hw, (ih hrest).2 j habove (by omega), (ih hrest).1⟩, fun k hk hka => ?_⟩
        obtain ⟨hkj, hkrest⟩ := (Memory.above_cons _ _ _ _).1 hk
        simp [Memory.above_cons, hkj, (ih hrest).2 k hkrest hka]

/-- What a read finds after a write: the byte written at its address, and what was there before at any other. -/
theorem Memory.read_write (m : Memory) (a b : Nat) (v : Byte) :
    (m.write a v).read b = if b = a then v else m.read b := by
  unfold Memory.write
  split
  · rename_i hv
    rw [Memory.read_erase, hv]
  · exact Memory.read_insert_erase m a b v

/-- Every write keeps the canonical form. -/
theorem Memory.wf_write {m : Memory} (a : Nat) (v : Byte) (h : m.wf = true) : (m.write a v).wf = true := by
  unfold Memory.write
  split
  · exact Memory.wf_erase a h
  · rename_i hv
    exact (Memory.wf_insert_erase a v hv h).1

theorem Memory.mem_insert {m : Memory} {a : Nat} {v : Byte} {c : Host.Cell} (h : c ∈ m.insert a v) :
    c ∈ m ∨ c.1 = a := by
  induction m with
  | nil => exact .inr (by rw [List.mem_singleton.1 h])
  | cons d rest ih =>
    obtain ⟨k, w⟩ := d
    unfold Memory.insert at h
    split at h
    · rcases List.mem_cons.1 h with rfl | h
      · exact .inr rfl
      · exact .inl h
    · rcases List.mem_cons.1 h with rfl | h
      · exact .inl List.mem_cons_self
      · exact (ih h).imp_left (List.mem_cons_of_mem _)

/-- The addresses listed after a write are those listed before, or the address written. -/
theorem Memory.mem_write {m : Memory} {a : Nat} {v : Byte} {c : Host.Cell} (h : c ∈ m.write a v) :
    c ∈ m ∨ c.1 = a := by
  unfold Memory.write at h
  split at h
  · exact .inl (List.mem_filter.1 h).1
  · exact (Memory.mem_insert h).imp_left fun h => (List.mem_filter.1 h).1

end Sys2Proof.Machine
end

