-- ==== Sys2Proof/Laws/Bus.lean ====
section
/-!
SUPPORT. What the devices and the Bus can do: a read leaves every device of R330 to R339, a write reaches the devices whose range holds
the address, events are only added, and only the timer and the devices of R308 request interrupts.
-/

namespace Sys2Proof.Machine

/-! ## The host's side -/

/-- The events of `io'` are those of `io` and perhaps more after them. -/
def Appends (io io' : HostIO) : Prop := ∃ new, io'.events = io.events ++ new

theorem Appends.of_eq {io io' : HostIO} (h : io'.events = io.events) : Appends io io' := ⟨[], by simp [h]⟩

theorem Appends.refl (io : HostIO) : Appends io io := .of_eq rfl

theorem Appends.trans {io io' io'' : HostIO} (h : Appends io io') (h' : Appends io' io'') : Appends io io'' := by
  obtain ⟨new, e⟩ := h
  obtain ⟨new', e'⟩ := h'
  exact ⟨new ++ new', by rw [e', e, List.append_assoc]⟩

@[simp] theorem draw_events (io : HostIO) : (draw io).2.events = io.events := by
  unfold draw
  split <;> rfl

@[simp] theorem drawBetween_events (lo hi : Nat) (io : HostIO) : (drawBetween lo hi io).2.events = io.events := by
  simp [drawBetween]

theorem emit_events (e : HostEvent) (io : HostIO) : (emit e io).events = io.events ++ [e] := rfl

theorem Appends.emit (e : HostEvent) (io : HostIO) : Appends io (emit e io) := ⟨_, rfl⟩

@[simp] theorem drawWord_events (io : HostIO) : (drawWord io).2.events = io.events := by
  simp [drawWord]

@[simp] theorem drawEvent_events (io : HostIO) : (drawEvent io).2.events = io.events := by
  unfold drawEvent
  dsimp only
  split <;> simp

theorem Appends.emitDrawn (n : Nat) (io : HostIO) : Appends io (emitDrawn n io) := by
  induction n generalizing io with
  | zero => exact .refl io
  | succ n ih => exact ((Appends.of_eq (drawEvent_events io)).trans (.emit _ _)).trans (ih _)

@[simp] theorem rtcGet_events (k : Nat) (io : HostIO) : (rtcGet k io).2.events = io.events := by
  unfold rtcGet
  split <;> simp

@[simp] theorem displayGet_events (d : Display) (k : Nat) (io : HostIO) : (displayGet d k io).2.events = io.events := by
  unfold displayGet
  split <;> simp

@[simp] theorem registerGet_events (d : Device) (a : Addr) (io : HostIO) : (registerGet d a io).2.events = io.events := by
  cases d <;> simp [registerGet]
  split <;> simp

theorem Appends.displaySet (d : Display) (k : Nat) (v : Byte) (io : HostIO) : Appends io (displaySet d k v io).2 := by
  unfold Machine.displaySet
  split <;> simp [Appends, emit_events]

/-! ## One device -/

@[simp] theorem quiet_device (d : Device) (io : HostIO) : (quiet d io).device = d := rfl

@[simp] theorem quiet_io (d : Device) (io : HostIO) : (quiet d io).io = io := rfl

@[simp] theorem quiet_requests (d : Device) (io : HostIO) : (quiet d io).requests = [] := rfl

@[simp] theorem otherCall_device (range : Option (Addr × Addr)) (calls : List DeviceCall) (c : DeviceCall) (io : HostIO) :
    (otherCall range calls c io).device = .other range (c :: calls) := rfl

theorem Appends.otherCall (range : Option (Addr × Addr)) (calls : List DeviceCall) (c : DeviceCall) (io : HostIO) :
    Appends io (otherCall range calls c io).io :=
  (Appends.of_eq (by simp)).trans (.emitDrawn _ _)

/-- A device of R308 that is asked for one interrupt or both, and for no event. -/
theorem otherCall_of_answers (range : Option (Addr × Addr)) (calls : List DeviceCall) (c : DeviceCall) {io : HostIO}
    {asked : Byte} {rest : List Byte} (h : io.answers = asked :: 0 :: rest) :
    otherCall range calls c io =
      { device := .other range (c :: calls), io := { io with answers := rest }, requests := requestsOf asked } := by
  simp [Machine.otherCall, draw, h, Machine.emitDrawn]

/-- A device that is not of R308 answers a read without a change, a request or an event. -/
theorem deviceGet_cases (d : Device) (a : Addr) (io : HostIO) :
    deviceGet d a io = ((registerGet d a io).1, quiet d (registerGet d a io).2) ∨
      ∃ range calls, d = .other range calls ∧
        deviceGet d a io = ((draw io).1, otherCall range calls (.get a) (draw io).2) := by
  cases d with
  | other range calls => exact .inr ⟨range, calls, rfl, rfl⟩
  | _ => exact .inl rfl

theorem Appends.deviceGet (d : Device) (a : Addr) (io : HostIO) : Appends io (deviceGet d a io).2.io := by
  rcases deviceGet_cases d a io with h | ⟨range, calls, -, h⟩
  · rw [h]
    exact .of_eq (registerGet_events d a io)
  · rw [h]
    exact (Appends.of_eq (draw_events io)).trans (.otherCall _ _ _ _)

theorem Appends.deviceSet (d : Device) (a : Addr) (v : Byte) (io : HostIO) : Appends io (deviceSet d a v io).io := by
  cases d with
  | parallel start data =>
    simp only [Machine.deviceSet]
    split
    · exact .refl io
    · split
      · exact .emit _ _
      · exact .refl io
  | display start r => exact .displaySet _ _ _ _
  | other range calls => exact .otherCall _ _ _ _
  | _ => exact .refl io

theorem Appends.deviceClock (d : Device) (io : HostIO) : Appends io (deviceClock d io).io := by
  cases d with
  | other range calls => exact .otherCall _ _ _ _
  | _ => exact .refl io

/-- No device emits an event in its reset. -/
@[simp] theorem deviceReset_events (d : Device) (io : HostIO) : (deviceReset d io).2.events = io.events := by
  cases d <;> simp [deviceReset]

/-- Only a device of R308 requests an interrupt from its `get`. -/
theorem deviceGet_requests {d : Device} {a : Addr} {io : HostIO} (h : (deviceGet d a io).2.requests ≠ []) :
    ∃ range calls, d = .other range calls := by
  rcases deviceGet_cases d a io with e | ⟨range, calls, e, -⟩
  · rw [e] at h
    exact absurd rfl h
  · exact ⟨range, calls, e⟩

/-- Only a device of R308 requests an interrupt from its `set`. -/
theorem deviceSet_requests {d : Device} {a : Addr} {v : Byte} {io : HostIO} (h : (deviceSet d a v io).requests ≠ []) :
    ∃ range calls, d = .other range calls := by
  cases d with
  | other range calls => exact ⟨range, calls, rfl⟩
  | parallel start data =>
    simp only [deviceSet] at h
    split at h <;> exact absurd rfl h
  | _ => exact absurd rfl h

/-- A write keeps the kind and the range of the device. -/
@[simp] theorem deviceRange_set (d : Device) (a : Addr) (v : Byte) (io : HostIO) :
    deviceRange (deviceSet d a v io).device = deviceRange d := by
  cases d with
  | parallel start data =>
    simp only [deviceSet]
    split <;> rfl
  | _ => rfl

@[simp] theorem deviceContains_set (d : Device) (a b : Addr) (v : Byte) (io : HostIO) :
    deviceContains (deviceSet d a v io).device b = deviceContains d b := by
  simp [deviceContains]

/-- A read keeps the kind and the range of the device. -/
@[simp] theorem deviceRange_get (d : Device) (a : Addr) (io : HostIO) :
    deviceRange (deviceGet d a io).2.device = deviceRange d := by
  cases d <;> rfl

@[simp] theorem deviceContains_get (d : Device) (a b : Addr) (io : HostIO) :
    deviceContains (deviceGet d a io).2.device b = deviceContains d b := by
  simp [deviceContains]

/-! ## The Bus -/

@[simp] theorem requestsFrom_nil (k : Nat) : requestsFrom k [] = [] := rfl

theorem busReadFrom_length (k : Nat) (devices : List Device) (io : HostIO) (a : Addr) :
    (busReadFrom k devices io a).2.devices.length = devices.length := by
  induction devices generalizing k with
  | nil => rfl
  | cons d rest ih =>
    unfold busReadFrom
    split <;> simp [ih]

@[simp] theorem busRead_length (devices : List Device) (io : HostIO) (a : Addr) :
    (busRead devices io a).2.devices.length = devices.length := busReadFrom_length 0 devices io a

theorem busWriteFrom_length (k : Nat) (devices : List Device) (io : HostIO) (a : Addr) (v : Byte) :
    (busWriteFrom k devices io a v).devices.length = devices.length := by
  induction devices generalizing io k with
  | nil => rfl
  | cons d rest ih => simp [busWriteFrom, ih]

@[simp] theorem busWrite_length (devices : List Device) (io : HostIO) (a : Addr) (v : Byte) :
    (busWrite devices io a v).devices.length = devices.length := busWriteFrom_length 0 devices io a v

/-- A Bus read only adds events. -/
theorem Appends.busReadFrom (k : Nat) (devices : List Device) (io : HostIO) (a : Addr) :
    Appends io (busReadFrom k devices io a).2.io := by
  induction devices generalizing k with
  | nil => exact .refl io
  | cons d rest ih =>
    unfold Machine.busReadFrom
    split
    · exact .deviceGet d a io
    · exact ih (k + 1)

/-- A Bus write only adds events. -/
theorem Appends.busWriteFrom (k : Nat) (devices : List Device) (io : HostIO) (a : Addr) (v : Byte) :
    Appends io (busWriteFrom k devices io a v).io := by
  induction devices generalizing io k with
  | nil => exact .refl io
  | cons d rest ih =>
    refine Appends.trans ?_ (ih (k + 1) _)
    split
    · exact .deviceSet d a v io
    · exact .refl io

/-- Each device after a Bus read: as before, or one that answered, its own `get`. -/
theorem busReadFrom_getElem (n : Nat) (devices : List Device) (io : HostIO) (a : Addr) (k : Nat) (d : Device)
    (h : devices[k]? = some d) :
    (busReadFrom n devices io a).2.devices[k]? = some d ∨
      (deviceContains d a = true ∧ (busReadFrom n devices io a).2.devices[k]? = some (deviceGet d a io).2.device) := by
  induction devices generalizing k n with
  | nil => simp at h
  | cons e rest ih =>
    unfold busReadFrom
    cases k with
    | zero =>
      obtain rfl : e = d := by simpa using h
      split
      · rename_i hc
        exact .inr ⟨hc, by simp⟩
      · exact .inl (by simp)
    | succ k =>
      simp only [List.getElem?_cons_succ] at h
      split
      · exact .inl (by simpa using h)
      · simpa using ih (n + 1) k h

/-- Each device after a Bus write: as before outside its range, and its own `set` inside it. -/
theorem busWriteFrom_getElem (n : Nat) (devices : List Device) (io : HostIO) (a : Addr) (v : Byte) (k : Nat) (d : Device)
    (h : devices[k]? = some d) :
    (deviceContains d a = false → (busWriteFrom n devices io a v).devices[k]? = some d) ∧
      (deviceContains d a = true → ∃ io', (busWriteFrom n devices io a v).devices[k]? = some (deviceSet d a v io').device) := by
  induction devices generalizing io k n with
  | nil => simp at h
  | cons e rest ih =>
    cases k with
    | zero =>
      obtain rfl : e = d := by simpa using h
      constructor
      · intro hc
        simp [busWriteFrom, hc]
      · intro hc
        exact ⟨io, by simp [busWriteFrom, hc]⟩
    | succ k =>
      simp only [List.getElem?_cons_succ] at h
      simpa only [busWriteFrom, List.getElem?_cons_succ] using ih (n + 1) _ k h

/-- An interrupt requested in a Bus read comes from a device of R308, under its place. -/
theorem busReadFrom_requests (n : Nat) (devices : List Device) (io : HostIO) (a : Addr) (r : Request)
    (h : r ∈ (busReadFrom n devices io a).2.requests) :
    ∃ k range calls, devices[k]? = some (.other range calls) ∧
      (busReadFrom n devices io a).2.devices[k]? = some (.other range (.get a :: calls)) ∧ r.source = .device (n + k) := by
  induction devices generalizing n with
  | nil => simp [busReadFrom] at h
  | cons d rest ih =>
    cases hc : deviceContains d a
    · simp only [busReadFrom, hc, Bool.false_eq_true, if_false] at h ⊢
      obtain ⟨k, range, calls, hk, ht, hs⟩ := ih (n + 1) h
      exact ⟨k + 1, range, calls, hk, ht, by rw [hs, Nat.add_assoc, Nat.add_comm 1 k]⟩
    · simp only [busReadFrom, hc, if_true, requestsFrom, List.mem_map] at h ⊢
      obtain ⟨kind, hk, rfl⟩ := h
      obtain ⟨range, calls, rfl⟩ := deviceGet_requests (List.ne_nil_of_mem hk)
      exact ⟨0, range, calls, rfl, rfl, rfl⟩

/-- An interrupt requested in a Bus write comes from a device of R308 that is written, under its place. -/
theorem busWriteFrom_requests (n : Nat) (devices : List Device) (io : HostIO) (a : Addr) (v : Byte) (r : Request)
    (h : r ∈ (busWriteFrom n devices io a v).requests) :
    ∃ k range calls, devices[k]? = some (.other range calls) ∧
      (busWriteFrom n devices io a v).devices[k]? = some (.other range (.set a v :: calls)) ∧ r.source = .device (n + k) := by
  induction devices generalizing n io with
  | nil => simp [busWriteFrom] at h
  | cons d rest ih =>
    simp only [busWriteFrom, List.mem_append] at h
    rcases h with h | h
    · simp only [requestsFrom, List.mem_map] at h
      obtain ⟨kind, hk, rfl⟩ := h
      split at hk
      · rename_i hc
        obtain ⟨range, calls, rfl⟩ := deviceSet_requests (List.ne_nil_of_mem hk)
        exact ⟨0, range, calls, rfl, by simp [busWriteFrom, hc, deviceSet], rfl⟩
      · exact absurd hk (by simp)
    · obtain ⟨k, range, calls, hk, ht, hs⟩ := ih (n + 1) _ h
      exact ⟨k + 1, range, calls, hk, ht, by rw [hs, Nat.add_assoc, Nat.add_comm 1 k]⟩

/-- A Bus write that no device matches changes nothing. -/
theorem busWriteFrom_none (n : Nat) (devices : List Device) (io : HostIO) (a : Addr) (v : Byte)
    (h : ∀ d ∈ devices, deviceContains d a = false) :
    busWriteFrom n devices io a v = { devices := devices, io := io, requests := [] } := by
  induction devices generalizing io n with
  | nil => rfl
  | cons d rest ih =>
    simp [busWriteFrom, h d List.mem_cons_self, ih (n + 1) io fun e he => h e (List.mem_cons_of_mem _ he)]

/-! ## Memory -/

/-- Every byte of memory reads as before a Bus read. -/
theorem memoryByte_busReadFrom (n : Nat) (devices : List Device) (io : HostIO) (a b : Addr) :
    memoryByte (busReadFrom n devices io a).2.devices b = memoryByte devices b := by
  induction devices generalizing n with
  | nil => rfl
  | cons d rest ih =>
    unfold busReadFrom
    split
    · simp only [memoryByte, deviceContains_get]
      split
      · cases d <;> rfl
      · rfl
    · simp only [memoryByte, ih]

@[simp] theorem memoryByte_busRead (devices : List Device) (io : HostIO) (a b : Addr) :
    memoryByte (busRead devices io a).2.devices b = memoryByte devices b := memoryByte_busReadFrom 0 devices io a b

/-- Every byte of memory but the one written reads as before. -/
theorem memoryByte_busWriteFrom_other (n : Nat) (devices : List Device) (io : HostIO) {a b : Addr} (v : Byte) (h : b ≠ a) :
    memoryByte (busWriteFrom n devices io a v).devices b = memoryByte devices b := by
  have hn : b.toNat ≠ a.toNat := fun e => h (BitVec.eq_of_toNat_eq e)
  induction devices generalizing io n with
  | nil => rfl
  | cons d rest ih =>
    simp only [busWriteFrom, memoryByte]
    split
    · rename_i hc
      rw [deviceContains_set, ih]
      split
      · cases d with
        | parallel start data => by_cases h0 : registerOffset start a = 0 <;> simp [deviceSet, h0]
        | _ => simp [deviceSet, Memory.read_write, hn]
      · rfl
    · rw [ih, quiet_device]

/-- RAM that answers an address holds the byte written there. -/
theorem memoryByte_busWriteFrom_same (n : Nat) (devices : List Device) (io : HostIO) {a lo hi : Addr} {cells : Memory} (v : Byte)
    (h : devices.find? (fun d => deviceContains d a) = some (.ram lo hi cells)) :
    memoryByte (busWriteFrom n devices io a v).devices a = some v := by
  induction devices generalizing io n with
  | nil => simp at h
  | cons d rest ih =>
    simp only [busWriteFrom, memoryByte]
    by_cases hc : deviceContains d a = true
    · obtain rfl : d = .ram lo hi cells := by simpa [hc] using h
      have hs : deviceContains (.ram lo hi (cells.write a.toNat v)) a = true := hc
      simp [hc, hs, deviceSet, Memory.read_write]
    · simpa [hc] using ih (n + 1) io (by simpa [hc] using h)

/-- A Bus read of memory gives the byte it holds and changes nothing. -/
theorem busReadFrom_of_memoryByte (n : Nat) {devices : List Device} {a : Addr} {v : Byte} (io : HostIO)
    (h : memoryByte devices a = some v) :
    busReadFrom n devices io a = (v, { devices := devices, io := io, requests := [] }) := by
  induction devices generalizing n with
  | nil => simpa [memoryByte, busReadFrom, eq_comm] using h
  | cons d rest ih =>
    simp only [memoryByte] at h
    simp only [busReadFrom]
    split at h
    · cases d <;> simp_all [deviceGet, registerGet]
    · rename_i hc
      rw [if_neg hc, ih (n + 1) h]

end Sys2Proof.Machine
end

