-- ==== Sys2Proof/Laws/Numbers.lean ====
section
/-!
SUPPORT. The byte and address helpers of Machine/Bits.lean in numbers.
-/

namespace Sys2Proof.Machine

theorem word_toNat (hi lo : Byte) : (word hi lo).toNat = 256 * hi.toNat + lo.toNat := by
  have h := BitVec.toNat_append hi lo
  rw [← Nat.shiftLeft_add_eq_or_of_lt lo.isLt, Nat.shiftLeft_eq] at h
  simp only [word]
  omega

/-- A word is the number its two bytes make. -/
theorem word_eq (hi lo : Byte) : word hi lo = BitVec.ofNat 16 (256 * hi.toNat + lo.toNat) := by
  apply BitVec.eq_of_toNat_eq
  have := hi.isLt
  have := lo.isLt
  rw [word_toNat, BitVec.toNat_ofNat]
  omega

theorem hiByte_toNat (w : Addr) : (hiByte w).toNat = w.toNat / 256 := by
  simp [hiByte, BitVec.extractLsb'_toNat, Nat.shiftRight_eq_div_pow]
  omega

theorem loByte_toNat (w : Addr) : (loByte w).toNat = w.toNat % 256 := by
  simp [loByte, BitVec.extractLsb'_toNat]

@[simp] theorem hiByte_word (hi lo : Byte) : hiByte (word hi lo) = hi := by
  apply BitVec.eq_of_toNat_eq
  have := lo.isLt
  rw [hiByte_toNat, word_toNat]
  omega

@[simp] theorem loByte_word (hi lo : Byte) : loByte (word hi lo) = lo := by
  apply BitVec.eq_of_toNat_eq
  have := lo.isLt
  rw [loByte_toNat, word_toNat]
  omega

/-- The two bytes of an address make it up. -/
@[simp] theorem word_hiByte_loByte (w : Addr) : word (hiByte w) (loByte w) = w := by
  apply BitVec.eq_of_toNat_eq
  rw [word_toNat, hiByte_toNat, loByte_toNat]
  omega

theorem zext16_eq (z : Byte) : zext16 z = BitVec.ofNat 16 z.toNat := by
  apply BitVec.eq_of_toNat_eq
  simp [zext16]

/-- Adding a sign-extended displacement is adding the signed number. -/
theorem add_sext8 (pc : Addr) (d : Byte) : pc + sext8 d = BitVec.ofInt 16 (pc.toNat + d.toInt) := by
  rw [sext8, BitVec.signExtend, BitVec.ofInt_add]
  congr 1
  simp

/-- The status byte in numbers (R25). -/
theorem serialize_toNat (p : Status) (b4 : Bool) :
    (serialize p b4).toNat =
      128 * p.n.toNat + 64 * p.v.toNat + 32 + 16 * b4.toNat + 8 * p.d.toNat + 4 * p.i.toNat + 2 * p.z.toNat + p.c.toNat := by
  obtain ⟨n, v, b, d, i, z, c⟩ := p
  revert n v b d i z c b4
  decide

/-- Reading the status byte back gives the flags, with B from bit 4 (R26). -/
@[simp] theorem deserialize_serialize (p : Status) (b4 : Bool) : deserialize (serialize p b4) = { p with b := b4 } := by
  obtain ⟨n, v, b, d, i, z, c⟩ := p
  revert n v b d i z c b4
  decide

end Sys2Proof.Machine
end

