-- ==== Sys2Proof/Laws/State.lean ====
section
/-!
SUPPORT. One lemma per field per update of the state: what each shared operation leaves in each field, true by unfolding once. Of a
Bus access the registers stay, and the devices, the host's side and the two latches are those of the reply: these four lemmas of memRead
and memWrite are no simp lemmas, so that a proof speaks of the access and not of the Bus under it.
-/

namespace Sys2Proof.Machine

/-! request. -/

@[simp] theorem request_cfg (kind : InterruptKind) (h : Handle) (s : State) :
    (request kind h s).cfg = s.cfg := rfl

@[simp] theorem request_a (kind : InterruptKind) (h : Handle) (s : State) :
    (request kind h s).a = s.a := rfl

@[simp] theorem request_x (kind : InterruptKind) (h : Handle) (s : State) :
    (request kind h s).x = s.x := rfl

@[simp] theorem request_y (kind : InterruptKind) (h : Handle) (s : State) :
    (request kind h s).y = s.y := rfl

@[simp] theorem request_sp (kind : InterruptKind) (h : Handle) (s : State) :
    (request kind h s).sp = s.sp := rfl

@[simp] theorem request_pc (kind : InterruptKind) (h : Handle) (s : State) :
    (request kind h s).pc = s.pc := rfl

@[simp] theorem request_p (kind : InterruptKind) (h : Handle) (s : State) :
    (request kind h s).p = s.p := rfl

@[simp] theorem request_instrCycles (kind : InterruptKind) (h : Handle) (s : State) :
    (request kind h s).instrCycles = s.instrCycles := rfl

@[simp] theorem request_totalCycles (kind : InterruptKind) (h : Handle) (s : State) :
    (request kind h s).totalCycles = s.totalCycles := rfl

@[simp] theorem request_nmiPending (kind : InterruptKind) (h : Handle) (s : State) :
    (request kind h s).nmiPending = latchAfter s.fault.isSome .nmi [{ kind := kind, source := h }] s.nmiPending := rfl

@[simp] theorem request_irqPending (kind : InterruptKind) (h : Handle) (s : State) :
    (request kind h s).irqPending = latchAfter s.fault.isSome .irq [{ kind := kind, source := h }] s.irqPending := rfl

@[simp] theorem request_runState (kind : InterruptKind) (h : Handle) (s : State) :
    (request kind h s).runState = s.runState := rfl

@[simp] theorem request_fault (kind : InterruptKind) (h : Handle) (s : State) :
    (request kind h s).fault = s.fault := rfl

@[simp] theorem request_devices (kind : InterruptKind) (h : Handle) (s : State) :
    (request kind h s).devices = s.devices := rfl

@[simp] theorem request_io (kind : InterruptKind) (h : Handle) (s : State) :
    (request kind h s).io = s.io := rfl

@[simp] theorem request_clockCalls (kind : InterruptKind) (h : Handle) (s : State) :
    (request kind h s).clockCalls = s.clockCalls := rfl

/-! afterAccess. -/

@[simp] theorem afterAccess_cfg (r : BusReply) (s : State) :
    (afterAccess r s).cfg = s.cfg := rfl

@[simp] theorem afterAccess_a (r : BusReply) (s : State) :
    (afterAccess r s).a = s.a := rfl

@[simp] theorem afterAccess_x (r : BusReply) (s : State) :
    (afterAccess r s).x = s.x := rfl

@[simp] theorem afterAccess_y (r : BusReply) (s : State) :
    (afterAccess r s).y = s.y := rfl

@[simp] theorem afterAccess_sp (r : BusReply) (s : State) :
    (afterAccess r s).sp = s.sp := rfl

@[simp] theorem afterAccess_pc (r : BusReply) (s : State) :
    (afterAccess r s).pc = s.pc := rfl

@[simp] theorem afterAccess_p (r : BusReply) (s : State) :
    (afterAccess r s).p = s.p := rfl

@[simp] theorem afterAccess_instrCycles (r : BusReply) (s : State) :
    (afterAccess r s).instrCycles = s.instrCycles := rfl

@[simp] theorem afterAccess_totalCycles (r : BusReply) (s : State) :
    (afterAccess r s).totalCycles = s.totalCycles := rfl

@[simp] theorem afterAccess_nmiPending (r : BusReply) (s : State) :
    (afterAccess r s).nmiPending = latchAfter s.fault.isSome .nmi r.requests s.nmiPending := rfl

@[simp] theorem afterAccess_irqPending (r : BusReply) (s : State) :
    (afterAccess r s).irqPending = latchAfter s.fault.isSome .irq r.requests s.irqPending := rfl

@[simp] theorem afterAccess_runState (r : BusReply) (s : State) :
    (afterAccess r s).runState = s.runState := rfl

@[simp] theorem afterAccess_fault (r : BusReply) (s : State) :
    (afterAccess r s).fault = s.fault := rfl

@[simp] theorem afterAccess_devices (r : BusReply) (s : State) :
    (afterAccess r s).devices = r.devices := rfl

@[simp] theorem afterAccess_io (r : BusReply) (s : State) :
    (afterAccess r s).io = r.io := rfl

@[simp] theorem afterAccess_clockCalls (r : BusReply) (s : State) :
    (afterAccess r s).clockCalls = s.clockCalls := rfl

/-! memRead. -/

@[simp] theorem memRead_cfg (s : State) (a : Addr) :
    ((memRead s a).2).cfg = s.cfg := rfl

@[simp] theorem memRead_a (s : State) (a : Addr) :
    ((memRead s a).2).a = s.a := rfl

@[simp] theorem memRead_x (s : State) (a : Addr) :
    ((memRead s a).2).x = s.x := rfl

@[simp] theorem memRead_y (s : State) (a : Addr) :
    ((memRead s a).2).y = s.y := rfl

@[simp] theorem memRead_sp (s : State) (a : Addr) :
    ((memRead s a).2).sp = s.sp := rfl

@[simp] theorem memRead_pc (s : State) (a : Addr) :
    ((memRead s a).2).pc = s.pc := rfl

@[simp] theorem memRead_p (s : State) (a : Addr) :
    ((memRead s a).2).p = s.p := rfl

@[simp] theorem memRead_instrCycles (s : State) (a : Addr) :
    ((memRead s a).2).instrCycles = s.instrCycles := rfl

@[simp] theorem memRead_totalCycles (s : State) (a : Addr) :
    ((memRead s a).2).totalCycles = s.totalCycles := rfl

theorem memRead_nmiPending (s : State) (a : Addr) :
    ((memRead s a).2).nmiPending = latchAfter s.fault.isSome .nmi (busRead s.devices s.io a).2.requests s.nmiPending := rfl

theorem memRead_irqPending (s : State) (a : Addr) :
    ((memRead s a).2).irqPending = latchAfter s.fault.isSome .irq (busRead s.devices s.io a).2.requests s.irqPending := rfl

@[simp] theorem memRead_runState (s : State) (a : Addr) :
    ((memRead s a).2).runState = s.runState := rfl

@[simp] theorem memRead_fault (s : State) (a : Addr) :
    ((memRead s a).2).fault = s.fault := rfl

theorem memRead_devices (s : State) (a : Addr) :
    ((memRead s a).2).devices = (busRead s.devices s.io a).2.devices := rfl

theorem memRead_io (s : State) (a : Addr) :
    ((memRead s a).2).io = (busRead s.devices s.io a).2.io := rfl

@[simp] theorem memRead_clockCalls (s : State) (a : Addr) :
    ((memRead s a).2).clockCalls = s.clockCalls := rfl

/-! memWrite. -/

@[simp] theorem memWrite_cfg (s : State) (a : Addr) (v : Byte) :
    (memWrite s a v).cfg = s.cfg := rfl

@[simp] theorem memWrite_a (s : State) (a : Addr) (v : Byte) :
    (memWrite s a v).a = s.a := rfl

@[simp] theorem memWrite_x (s : State) (a : Addr) (v : Byte) :
    (memWrite s a v).x = s.x := rfl

@[simp] theorem memWrite_y (s : State) (a : Addr) (v : Byte) :
    (memWrite s a v).y = s.y := rfl

@[simp] theorem memWrite_sp (s : State) (a : Addr) (v : Byte) :
    (memWrite s a v).sp = s.sp := rfl

@[simp] theorem memWrite_pc (s : State) (a : Addr) (v : Byte) :
    (memWrite s a v).pc = s.pc := rfl

@[simp] theorem memWrite_p (s : State) (a : Addr) (v : Byte) :
    (memWrite s a v).p = s.p := rfl

@[simp] theorem memWrite_instrCycles (s : State) (a : Addr) (v : Byte) :
    (memWrite s a v).instrCycles = s.instrCycles := rfl

@[simp] theorem memWrite_totalCycles (s : State) (a : Addr) (v : Byte) :
    (memWrite s a v).totalCycles = s.totalCycles := rfl

theorem memWrite_nmiPending (s : State) (a : Addr) (v : Byte) :
    (memWrite s a v).nmiPending = latchAfter s.fault.isSome .nmi (busWrite s.devices s.io a v).requests s.nmiPending := rfl

theorem memWrite_irqPending (s : State) (a : Addr) (v : Byte) :
    (memWrite s a v).irqPending = latchAfter s.fault.isSome .irq (busWrite s.devices s.io a v).requests s.irqPending := rfl

@[simp] theorem memWrite_runState (s : State) (a : Addr) (v : Byte) :
    (memWrite s a v).runState = s.runState := rfl

@[simp] theorem memWrite_fault (s : State) (a : Addr) (v : Byte) :
    (memWrite s a v).fault = s.fault := rfl

theorem memWrite_devices (s : State) (a : Addr) (v : Byte) :
    (memWrite s a v).devices = (busWrite s.devices s.io a v).devices := rfl

theorem memWrite_io (s : State) (a : Addr) (v : Byte) :
    (memWrite s a v).io = (busWrite s.devices s.io a v).io := rfl

@[simp] theorem memWrite_clockCalls (s : State) (a : Addr) (v : Byte) :
    (memWrite s a v).clockCalls = s.clockCalls := rfl

/-! push. -/

@[simp] theorem push_cfg (v : Byte) (s : State) :
    (push v s).cfg = s.cfg := rfl

@[simp] theorem push_a (v : Byte) (s : State) :
    (push v s).a = s.a := rfl

@[simp] theorem push_x (v : Byte) (s : State) :
    (push v s).x = s.x := rfl

@[simp] theorem push_y (v : Byte) (s : State) :
    (push v s).y = s.y := rfl

@[simp] theorem push_sp (v : Byte) (s : State) :
    (push v s).sp = s.sp - 1 := rfl

@[simp] theorem push_pc (v : Byte) (s : State) :
    (push v s).pc = s.pc := rfl

@[simp] theorem push_p (v : Byte) (s : State) :
    (push v s).p = s.p := rfl

@[simp] theorem push_instrCycles (v : Byte) (s : State) :
    (push v s).instrCycles = s.instrCycles := rfl

@[simp] theorem push_totalCycles (v : Byte) (s : State) :
    (push v s).totalCycles = s.totalCycles := rfl

@[simp] theorem push_nmiPending (v : Byte) (s : State) :
    (push v s).nmiPending = (memWrite s (stackAddr s.sp) v).nmiPending := rfl

@[simp] theorem push_irqPending (v : Byte) (s : State) :
    (push v s).irqPending = (memWrite s (stackAddr s.sp) v).irqPending := rfl

@[simp] theorem push_runState (v : Byte) (s : State) :
    (push v s).runState = s.runState := rfl

@[simp] theorem push_fault (v : Byte) (s : State) :
    (push v s).fault = s.fault := rfl

@[simp] theorem push_devices (v : Byte) (s : State) :
    (push v s).devices = (memWrite s (stackAddr s.sp) v).devices := rfl

@[simp] theorem push_io (v : Byte) (s : State) :
    (push v s).io = (memWrite s (stackAddr s.sp) v).io := rfl

@[simp] theorem push_clockCalls (v : Byte) (s : State) :
    (push v s).clockCalls = s.clockCalls := rfl

/-! pull. -/

@[simp] theorem pull_cfg (s : State) :
    ((pull s).2).cfg = s.cfg := rfl

@[simp] theorem pull_a (s : State) :
    ((pull s).2).a = s.a := rfl

@[simp] theorem pull_x (s : State) :
    ((pull s).2).x = s.x := rfl

@[simp] theorem pull_y (s : State) :
    ((pull s).2).y = s.y := rfl

@[simp] theorem pull_sp (s : State) :
    ((pull s).2).sp = s.sp + 1 := rfl

@[simp] theorem pull_pc (s : State) :
    ((pull s).2).pc = s.pc := rfl

@[simp] theorem pull_p (s : State) :
    ((pull s).2).p = s.p := rfl

@[simp] theorem pull_instrCycles (s : State) :
    ((pull s).2).instrCycles = s.instrCycles := rfl

@[simp] theorem pull_totalCycles (s : State) :
    ((pull s).2).totalCycles = s.totalCycles := rfl

@[simp] theorem pull_nmiPending (s : State) :
    ((pull s).2).nmiPending = ((memRead s (stackAddr (s.sp + 1))).2).nmiPending := rfl

@[simp] theorem pull_irqPending (s : State) :
    ((pull s).2).irqPending = ((memRead s (stackAddr (s.sp + 1))).2).irqPending := rfl

@[simp] theorem pull_runState (s : State) :
    ((pull s).2).runState = s.runState := rfl

@[simp] theorem pull_fault (s : State) :
    ((pull s).2).fault = s.fault := rfl

@[simp] theorem pull_devices (s : State) :
    ((pull s).2).devices = ((memRead s (stackAddr (s.sp + 1))).2).devices := rfl

@[simp] theorem pull_io (s : State) :
    ((pull s).2).io = ((memRead s (stackAddr (s.sp + 1))).2).io := rfl

@[simp] theorem pull_clockCalls (s : State) :
    ((pull s).2).clockCalls = s.clockCalls := rfl

/-! fetch. -/

@[simp] theorem fetch_cfg (s : State) :
    ((fetch s).2).cfg = s.cfg := rfl

@[simp] theorem fetch_a (s : State) :
    ((fetch s).2).a = s.a := rfl

@[simp] theorem fetch_x (s : State) :
    ((fetch s).2).x = s.x := rfl

@[simp] theorem fetch_y (s : State) :
    ((fetch s).2).y = s.y := rfl

@[simp] theorem fetch_sp (s : State) :
    ((fetch s).2).sp = s.sp := rfl

@[simp] theorem fetch_pc (s : State) :
    ((fetch s).2).pc = s.pc + 1 := rfl

@[simp] theorem fetch_p (s : State) :
    ((fetch s).2).p = s.p := rfl

@[simp] theorem fetch_instrCycles (s : State) :
    ((fetch s).2).instrCycles = s.instrCycles := rfl

@[simp] theorem fetch_totalCycles (s : State) :
    ((fetch s).2).totalCycles = s.totalCycles := rfl

@[simp] theorem fetch_nmiPending (s : State) :
    ((fetch s).2).nmiPending = ((memRead s s.pc).2).nmiPending := rfl

@[simp] theorem fetch_irqPending (s : State) :
    ((fetch s).2).irqPending = ((memRead s s.pc).2).irqPending := rfl

@[simp] theorem fetch_runState (s : State) :
    ((fetch s).2).runState = s.runState := rfl

@[simp] theorem fetch_fault (s : State) :
    ((fetch s).2).fault = s.fault := rfl

@[simp] theorem fetch_devices (s : State) :
    ((fetch s).2).devices = ((memRead s s.pc).2).devices := rfl

@[simp] theorem fetch_io (s : State) :
    ((fetch s).2).io = ((memRead s s.pc).2).io := rfl

@[simp] theorem fetch_clockCalls (s : State) :
    ((fetch s).2).clockCalls = s.clockCalls := rfl

/-! readWord. -/

@[simp] theorem readWord_cfg (s : State) (a : Addr) :
    ((readWord s a).2).cfg = s.cfg := rfl

@[simp] theorem readWord_a (s : State) (a : Addr) :
    ((readWord s a).2).a = s.a := rfl

@[simp] theorem readWord_x (s : State) (a : Addr) :
    ((readWord s a).2).x = s.x := rfl

@[simp] theorem readWord_y (s : State) (a : Addr) :
    ((readWord s a).2).y = s.y := rfl

@[simp] theorem readWord_sp (s : State) (a : Addr) :
    ((readWord s a).2).sp = s.sp := rfl

@[simp] theorem readWord_pc (s : State) (a : Addr) :
    ((readWord s a).2).pc = s.pc := rfl

@[simp] theorem readWord_p (s : State) (a : Addr) :
    ((readWord s a).2).p = s.p := rfl

@[simp] theorem readWord_instrCycles (s : State) (a : Addr) :
    ((readWord s a).2).instrCycles = s.instrCycles := rfl

@[simp] theorem readWord_totalCycles (s : State) (a : Addr) :
    ((readWord s a).2).totalCycles = s.totalCycles := rfl

@[simp] theorem readWord_nmiPending (s : State) (a : Addr) :
    ((readWord s a).2).nmiPending = ((memRead (memRead s a).2 (a + 1)).2).nmiPending := rfl

@[simp] theorem readWord_irqPending (s : State) (a : Addr) :
    ((readWord s a).2).irqPending = ((memRead (memRead s a).2 (a + 1)).2).irqPending := rfl

@[simp] theorem readWord_runState (s : State) (a : Addr) :
    ((readWord s a).2).runState = s.runState := rfl

@[simp] theorem readWord_fault (s : State) (a : Addr) :
    ((readWord s a).2).fault = s.fault := rfl

@[simp] theorem readWord_devices (s : State) (a : Addr) :
    ((readWord s a).2).devices = ((memRead (memRead s a).2 (a + 1)).2).devices := rfl

@[simp] theorem readWord_io (s : State) (a : Addr) :
    ((readWord s a).2).io = ((memRead (memRead s a).2 (a + 1)).2).io := rfl

@[simp] theorem readWord_clockCalls (s : State) (a : Addr) :
    ((readWord s a).2).clockCalls = s.clockCalls := rfl

/-! pushWord. -/

@[simp] theorem pushWord_cfg (w : Addr) (s : State) :
    (pushWord w s).cfg = s.cfg := rfl

@[simp] theorem pushWord_a (w : Addr) (s : State) :
    (pushWord w s).a = s.a := rfl

@[simp] theorem pushWord_x (w : Addr) (s : State) :
    (pushWord w s).x = s.x := rfl

@[simp] theorem pushWord_y (w : Addr) (s : State) :
    (pushWord w s).y = s.y := rfl

@[simp] theorem pushWord_sp (w : Addr) (s : State) :
    (pushWord w s).sp = s.sp - 1 - 1 := rfl

@[simp] theorem pushWord_pc (w : Addr) (s : State) :
    (pushWord w s).pc = s.pc := rfl

@[simp] theorem pushWord_p (w : Addr) (s : State) :
    (pushWord w s).p = s.p := rfl

@[simp] theorem pushWord_instrCycles (w : Addr) (s : State) :
    (pushWord w s).instrCycles = s.instrCycles := rfl

@[simp] theorem pushWord_totalCycles (w : Addr) (s : State) :
    (pushWord w s).totalCycles = s.totalCycles := rfl

@[simp] theorem pushWord_nmiPending (w : Addr) (s : State) :
    (pushWord w s).nmiPending = (push (loByte w) (push (hiByte w) s)).nmiPending := rfl

@[simp] theorem pushWord_irqPending (w : Addr) (s : State) :
    (pushWord w s).irqPending = (push (loByte w) (push (hiByte w) s)).irqPending := rfl

@[simp] theorem pushWord_runState (w : Addr) (s : State) :
    (pushWord w s).runState = s.runState := rfl

@[simp] theorem pushWord_fault (w : Addr) (s : State) :
    (pushWord w s).fault = s.fault := rfl

@[simp] theorem pushWord_devices (w : Addr) (s : State) :
    (pushWord w s).devices = (push (loByte w) (push (hiByte w) s)).devices := rfl

@[simp] theorem pushWord_io (w : Addr) (s : State) :
    (pushWord w s).io = (push (loByte w) (push (hiByte w) s)).io := rfl

@[simp] theorem pushWord_clockCalls (w : Addr) (s : State) :
    (pushWord w s).clockCalls = s.clockCalls := rfl

/-! pullWord. -/

@[simp] theorem pullWord_cfg (s : State) :
    ((pullWord s).2).cfg = s.cfg := rfl

@[simp] theorem pullWord_a (s : State) :
    ((pullWord s).2).a = s.a := rfl

@[simp] theorem pullWord_x (s : State) :
    ((pullWord s).2).x = s.x := rfl

@[simp] theorem pullWord_y (s : State) :
    ((pullWord s).2).y = s.y := rfl

@[simp] theorem pullWord_sp (s : State) :
    ((pullWord s).2).sp = s.sp + 1 + 1 := rfl

@[simp] theorem pullWord_pc (s : State) :
    ((pullWord s).2).pc = s.pc := rfl

@[simp] theorem pullWord_p (s : State) :
    ((pullWord s).2).p = s.p := rfl

@[simp] theorem pullWord_instrCycles (s : State) :
    ((pullWord s).2).instrCycles = s.instrCycles := rfl

@[simp] theorem pullWord_totalCycles (s : State) :
    ((pullWord s).2).totalCycles = s.totalCycles := rfl

@[simp] theorem pullWord_nmiPending (s : State) :
    ((pullWord s).2).nmiPending = ((pull (pull s).2).2).nmiPending := rfl

@[simp] theorem pullWord_irqPending (s : State) :
    ((pullWord s).2).irqPending = ((pull (pull s).2).2).irqPending := rfl

@[simp] theorem pullWord_runState (s : State) :
    ((pullWord s).2).runState = s.runState := rfl

@[simp] theorem pullWord_fault (s : State) :
    ((pullWord s).2).fault = s.fault := rfl

@[simp] theorem pullWord_devices (s : State) :
    ((pullWord s).2).devices = ((pull (pull s).2).2).devices := rfl

@[simp] theorem pullWord_io (s : State) :
    ((pullWord s).2).io = ((pull (pull s).2).2).io := rfl

@[simp] theorem pullWord_clockCalls (s : State) :
    ((pullWord s).2).clockCalls = s.clockCalls := rfl

/-! raise. -/

@[simp] theorem raise_cfg (f : Fault) (s : State) :
    (raise f s).cfg = s.cfg := rfl

@[simp] theorem raise_a (f : Fault) (s : State) :
    (raise f s).a = s.a := rfl

@[simp] theorem raise_x (f : Fault) (s : State) :
    (raise f s).x = s.x := rfl

@[simp] theorem raise_y (f : Fault) (s : State) :
    (raise f s).y = s.y := rfl

@[simp] theorem raise_sp (f : Fault) (s : State) :
    (raise f s).sp = s.sp := rfl

@[simp] theorem raise_pc (f : Fault) (s : State) :
    (raise f s).pc = s.pc := rfl

@[simp] theorem raise_p (f : Fault) (s : State) :
    (raise f s).p = s.p := rfl

@[simp] theorem raise_instrCycles (f : Fault) (s : State) :
    (raise f s).instrCycles = s.instrCycles := rfl

@[simp] theorem raise_totalCycles (f : Fault) (s : State) :
    (raise f s).totalCycles = s.totalCycles := rfl

@[simp] theorem raise_nmiPending (f : Fault) (s : State) :
    (raise f s).nmiPending = s.nmiPending := rfl

@[simp] theorem raise_irqPending (f : Fault) (s : State) :
    (raise f s).irqPending = s.irqPending := rfl

@[simp] theorem raise_runState (f : Fault) (s : State) :
    (raise f s).runState = s.runState := rfl

@[simp] theorem raise_fault (f : Fault) (s : State) :
    (raise f s).fault = some f := rfl

@[simp] theorem raise_devices (f : Fault) (s : State) :
    (raise f s).devices = s.devices := rfl

@[simp] theorem raise_io (f : Fault) (s : State) :
    (raise f s).io = s.io := rfl

@[simp] theorem raise_clockCalls (f : Fault) (s : State) :
    (raise f s).clockCalls = s.clockCalls := rfl

/-! endCycle. -/

@[simp] theorem endCycle_cfg (s : State) :
    (endCycle s).cfg = s.cfg := rfl

@[simp] theorem endCycle_a (s : State) :
    (endCycle s).a = s.a := rfl

@[simp] theorem endCycle_x (s : State) :
    (endCycle s).x = s.x := rfl

@[simp] theorem endCycle_y (s : State) :
    (endCycle s).y = s.y := rfl

@[simp] theorem endCycle_sp (s : State) :
    (endCycle s).sp = s.sp := rfl

@[simp] theorem endCycle_pc (s : State) :
    (endCycle s).pc = s.pc := rfl

@[simp] theorem endCycle_p (s : State) :
    (endCycle s).p = s.p := rfl

@[simp] theorem endCycle_instrCycles (s : State) :
    (endCycle s).instrCycles = s.instrCycles - 1 := rfl

@[simp] theorem endCycle_totalCycles (s : State) :
    (endCycle s).totalCycles = s.totalCycles + 1 := rfl

@[simp] theorem endCycle_nmiPending (s : State) :
    (endCycle s).nmiPending = s.nmiPending := rfl

@[simp] theorem endCycle_irqPending (s : State) :
    (endCycle s).irqPending = s.irqPending := rfl

@[simp] theorem endCycle_runState (s : State) :
    (endCycle s).runState = s.runState := rfl

@[simp] theorem endCycle_fault (s : State) :
    (endCycle s).fault = s.fault := rfl

@[simp] theorem endCycle_devices (s : State) :
    (endCycle s).devices = s.devices := rfl

@[simp] theorem endCycle_io (s : State) :
    (endCycle s).io = s.io := rfl

@[simp] theorem endCycle_clockCalls (s : State) :
    (endCycle s).clockCalls = s.clockCalls := rfl

/-! charge. -/

@[simp] theorem charge_cfg (op : Byte) (s : State) :
    (charge op s).cfg = s.cfg := rfl

@[simp] theorem charge_a (op : Byte) (s : State) :
    (charge op s).a = s.a := rfl

@[simp] theorem charge_x (op : Byte) (s : State) :
    (charge op s).x = s.x := rfl

@[simp] theorem charge_y (op : Byte) (s : State) :
    (charge op s).y = s.y := rfl

@[simp] theorem charge_sp (op : Byte) (s : State) :
    (charge op s).sp = s.sp := rfl

@[simp] theorem charge_pc (op : Byte) (s : State) :
    (charge op s).pc = s.pc + 1 := rfl

@[simp] theorem charge_p (op : Byte) (s : State) :
    (charge op s).p = s.p := rfl

@[simp] theorem charge_instrCycles (op : Byte) (s : State) :
    (charge op s).instrCycles = baseCycles s.cfg.variant op := rfl

@[simp] theorem charge_totalCycles (op : Byte) (s : State) :
    (charge op s).totalCycles = s.totalCycles := rfl

@[simp] theorem charge_nmiPending (op : Byte) (s : State) :
    (charge op s).nmiPending = s.nmiPending := rfl

@[simp] theorem charge_irqPending (op : Byte) (s : State) :
    (charge op s).irqPending = s.irqPending := rfl

@[simp] theorem charge_runState (op : Byte) (s : State) :
    (charge op s).runState = s.runState := rfl

@[simp] theorem charge_fault (op : Byte) (s : State) :
    (charge op s).fault = s.fault := rfl

@[simp] theorem charge_devices (op : Byte) (s : State) :
    (charge op s).devices = s.devices := rfl

@[simp] theorem charge_io (op : Byte) (s : State) :
    (charge op s).io = s.io := rfl

@[simp] theorem charge_clockCalls (op : Byte) (s : State) :
    (charge op s).clockCalls = s.clockCalls := rfl

/-! setA. -/

@[simp] theorem setA_cfg (v : Byte) (s : State) :
    (setA v s).cfg = s.cfg := rfl

@[simp] theorem setA_a (v : Byte) (s : State) :
    (setA v s).a = v := rfl

@[simp] theorem setA_x (v : Byte) (s : State) :
    (setA v s).x = s.x := rfl

@[simp] theorem setA_y (v : Byte) (s : State) :
    (setA v s).y = s.y := rfl

@[simp] theorem setA_sp (v : Byte) (s : State) :
    (setA v s).sp = s.sp := rfl

@[simp] theorem setA_pc (v : Byte) (s : State) :
    (setA v s).pc = s.pc := rfl

@[simp] theorem setA_p (v : Byte) (s : State) :
    (setA v s).p = s.p := rfl

@[simp] theorem setA_instrCycles (v : Byte) (s : State) :
    (setA v s).instrCycles = s.instrCycles := rfl

@[simp] theorem setA_totalCycles (v : Byte) (s : State) :
    (setA v s).totalCycles = s.totalCycles := rfl

@[simp] theorem setA_nmiPending (v : Byte) (s : State) :
    (setA v s).nmiPending = s.nmiPending := rfl

@[simp] theorem setA_irqPending (v : Byte) (s : State) :
    (setA v s).irqPending = s.irqPending := rfl

@[simp] theorem setA_runState (v : Byte) (s : State) :
    (setA v s).runState = s.runState := rfl

@[simp] theorem setA_fault (v : Byte) (s : State) :
    (setA v s).fault = s.fault := rfl

@[simp] theorem setA_devices (v : Byte) (s : State) :
    (setA v s).devices = s.devices := rfl

@[simp] theorem setA_io (v : Byte) (s : State) :
    (setA v s).io = s.io := rfl

@[simp] theorem setA_clockCalls (v : Byte) (s : State) :
    (setA v s).clockCalls = s.clockCalls := rfl

/-! setX. -/

@[simp] theorem setX_cfg (v : Byte) (s : State) :
    (setX v s).cfg = s.cfg := rfl

@[simp] theorem setX_a (v : Byte) (s : State) :
    (setX v s).a = s.a := rfl

@[simp] theorem setX_x (v : Byte) (s : State) :
    (setX v s).x = v := rfl

@[simp] theorem setX_y (v : Byte) (s : State) :
    (setX v s).y = s.y := rfl

@[simp] theorem setX_sp (v : Byte) (s : State) :
    (setX v s).sp = s.sp := rfl

@[simp] theorem setX_pc (v : Byte) (s : State) :
    (setX v s).pc = s.pc := rfl

@[simp] theorem setX_p (v : Byte) (s : State) :
    (setX v s).p = s.p := rfl

@[simp] theorem setX_instrCycles (v : Byte) (s : State) :
    (setX v s).instrCycles = s.instrCycles := rfl

@[simp] theorem setX_totalCycles (v : Byte) (s : State) :
    (setX v s).totalCycles = s.totalCycles := rfl

@[simp] theorem setX_nmiPending (v : Byte) (s : State) :
    (setX v s).nmiPending = s.nmiPending := rfl

@[simp] theorem setX_irqPending (v : Byte) (s : State) :
    (setX v s).irqPending = s.irqPending := rfl

@[simp] theorem setX_runState (v : Byte) (s : State) :
    (setX v s).runState = s.runState := rfl

@[simp] theorem setX_fault (v : Byte) (s : State) :
    (setX v s).fault = s.fault := rfl

@[simp] theorem setX_devices (v : Byte) (s : State) :
    (setX v s).devices = s.devices := rfl

@[simp] theorem setX_io (v : Byte) (s : State) :
    (setX v s).io = s.io := rfl

@[simp] theorem setX_clockCalls (v : Byte) (s : State) :
    (setX v s).clockCalls = s.clockCalls := rfl

/-! setY. -/

@[simp] theorem setY_cfg (v : Byte) (s : State) :
    (setY v s).cfg = s.cfg := rfl

@[simp] theorem setY_a (v : Byte) (s : State) :
    (setY v s).a = s.a := rfl

@[simp] theorem setY_x (v : Byte) (s : State) :
    (setY v s).x = s.x := rfl

@[simp] theorem setY_y (v : Byte) (s : State) :
    (setY v s).y = v := rfl

@[simp] theorem setY_sp (v : Byte) (s : State) :
    (setY v s).sp = s.sp := rfl

@[simp] theorem setY_pc (v : Byte) (s : State) :
    (setY v s).pc = s.pc := rfl

@[simp] theorem setY_p (v : Byte) (s : State) :
    (setY v s).p = s.p := rfl

@[simp] theorem setY_instrCycles (v : Byte) (s : State) :
    (setY v s).instrCycles = s.instrCycles := rfl

@[simp] theorem setY_totalCycles (v : Byte) (s : State) :
    (setY v s).totalCycles = s.totalCycles := rfl

@[simp] theorem setY_nmiPending (v : Byte) (s : State) :
    (setY v s).nmiPending = s.nmiPending := rfl

@[simp] theorem setY_irqPending (v : Byte) (s : State) :
    (setY v s).irqPending = s.irqPending := rfl

@[simp] theorem setY_runState (v : Byte) (s : State) :
    (setY v s).runState = s.runState := rfl

@[simp] theorem setY_fault (v : Byte) (s : State) :
    (setY v s).fault = s.fault := rfl

@[simp] theorem setY_devices (v : Byte) (s : State) :
    (setY v s).devices = s.devices := rfl

@[simp] theorem setY_io (v : Byte) (s : State) :
    (setY v s).io = s.io := rfl

@[simp] theorem setY_clockCalls (v : Byte) (s : State) :
    (setY v s).clockCalls = s.clockCalls := rfl

/-! modifyAcc. -/

@[simp] theorem modifyAcc_cfg (f : Modify) (s : State) :
    (modifyAcc f s).cfg = s.cfg := rfl

@[simp] theorem modifyAcc_a (f : Modify) (s : State) :
    (modifyAcc f s).a = (f s.a s.p).1 := rfl

@[simp] theorem modifyAcc_x (f : Modify) (s : State) :
    (modifyAcc f s).x = s.x := rfl

@[simp] theorem modifyAcc_y (f : Modify) (s : State) :
    (modifyAcc f s).y = s.y := rfl

@[simp] theorem modifyAcc_sp (f : Modify) (s : State) :
    (modifyAcc f s).sp = s.sp := rfl

@[simp] theorem modifyAcc_pc (f : Modify) (s : State) :
    (modifyAcc f s).pc = s.pc := rfl

@[simp] theorem modifyAcc_p (f : Modify) (s : State) :
    (modifyAcc f s).p = (f s.a s.p).2 := rfl

@[simp] theorem modifyAcc_instrCycles (f : Modify) (s : State) :
    (modifyAcc f s).instrCycles = s.instrCycles := rfl

@[simp] theorem modifyAcc_totalCycles (f : Modify) (s : State) :
    (modifyAcc f s).totalCycles = s.totalCycles := rfl

@[simp] theorem modifyAcc_nmiPending (f : Modify) (s : State) :
    (modifyAcc f s).nmiPending = s.nmiPending := rfl

@[simp] theorem modifyAcc_irqPending (f : Modify) (s : State) :
    (modifyAcc f s).irqPending = s.irqPending := rfl

@[simp] theorem modifyAcc_runState (f : Modify) (s : State) :
    (modifyAcc f s).runState = s.runState := rfl

@[simp] theorem modifyAcc_fault (f : Modify) (s : State) :
    (modifyAcc f s).fault = s.fault := rfl

@[simp] theorem modifyAcc_devices (f : Modify) (s : State) :
    (modifyAcc f s).devices = s.devices := rfl

@[simp] theorem modifyAcc_io (f : Modify) (s : State) :
    (modifyAcc f s).io = s.io := rfl

@[simp] theorem modifyAcc_clockCalls (f : Modify) (s : State) :
    (modifyAcc f s).clockCalls = s.clockCalls := rfl

/-! enterException. -/

@[simp] theorem enterException_cfg (b4 : Bool) (vector : Addr) (s : State) :
    (enterException b4 vector s).cfg = s.cfg := by
  simp [enterException]

@[simp] theorem enterException_a (b4 : Bool) (vector : Addr) (s : State) :
    (enterException b4 vector s).a = s.a := by
  simp [enterException]

@[simp] theorem enterException_x (b4 : Bool) (vector : Addr) (s : State) :
    (enterException b4 vector s).x = s.x := by
  simp [enterException]

@[simp] theorem enterException_y (b4 : Bool) (vector : Addr) (s : State) :
    (enterException b4 vector s).y = s.y := by
  simp [enterException]

@[simp] theorem enterException_sp (b4 : Bool) (vector : Addr) (s : State) :
    (enterException b4 vector s).sp = s.sp - 1 - 1 - 1 := by
  simp [enterException]

@[simp] theorem enterException_pc (b4 : Bool) (vector : Addr) (s : State) :
    (enterException b4 vector s).pc = (readWord (push (serialize s.p b4) (pushWord s.pc s)) vector).1 := rfl

@[simp] theorem enterException_p (b4 : Bool) (vector : Addr) (s : State) :
    (enterException b4 vector s).p = { s.p with i := true } := rfl

@[simp] theorem enterException_instrCycles (b4 : Bool) (vector : Addr) (s : State) :
    (enterException b4 vector s).instrCycles = s.instrCycles := by
  simp [enterException]

@[simp] theorem enterException_totalCycles (b4 : Bool) (vector : Addr) (s : State) :
    (enterException b4 vector s).totalCycles = s.totalCycles := by
  simp [enterException]

@[simp] theorem enterException_nmiPending (b4 : Bool) (vector : Addr) (s : State) :
    (enterException b4 vector s).nmiPending = ((readWord (push (serialize s.p b4) (pushWord s.pc s)) vector).2).nmiPending := rfl

@[simp] theorem enterException_irqPending (b4 : Bool) (vector : Addr) (s : State) :
    (enterException b4 vector s).irqPending = ((readWord (push (serialize s.p b4) (pushWord s.pc s)) vector).2).irqPending := rfl

@[simp] theorem enterException_runState (b4 : Bool) (vector : Addr) (s : State) :
    (enterException b4 vector s).runState = s.runState := by
  simp [enterException]

@[simp] theorem enterException_fault (b4 : Bool) (vector : Addr) (s : State) :
    (enterException b4 vector s).fault = s.fault := by
  simp [enterException]

@[simp] theorem enterException_devices (b4 : Bool) (vector : Addr) (s : State) :
    (enterException b4 vector s).devices = ((readWord (push (serialize s.p b4) (pushWord s.pc s)) vector).2).devices := rfl

@[simp] theorem enterException_io (b4 : Bool) (vector : Addr) (s : State) :
    (enterException b4 vector s).io = ((readWord (push (serialize s.p b4) (pushWord s.pc s)) vector).2).io := rfl

@[simp] theorem enterException_clockCalls (b4 : Bool) (vector : Addr) (s : State) :
    (enterException b4 vector s).clockCalls = s.clockCalls := by
  simp [enterException]

/-! returnFromException. -/

@[simp] theorem returnFromException_cfg (s : State) :
    (returnFromException s).cfg = s.cfg := rfl

@[simp] theorem returnFromException_a (s : State) :
    (returnFromException s).a = s.a := rfl

@[simp] theorem returnFromException_x (s : State) :
    (returnFromException s).x = s.x := rfl

@[simp] theorem returnFromException_y (s : State) :
    (returnFromException s).y = s.y := rfl

@[simp] theorem returnFromException_sp (s : State) :
    (returnFromException s).sp = s.sp + 1 + 1 + 1 := rfl

@[simp] theorem returnFromException_pc (s : State) :
    (returnFromException s).pc = word (pull (pull (pull s).2).2).1 (pull (pull s).2).1 := rfl

@[simp] theorem returnFromException_p (s : State) :
    (returnFromException s).p = { deserialize (pull s).1 with b := true } := rfl

@[simp] theorem returnFromException_instrCycles (s : State) :
    (returnFromException s).instrCycles = s.instrCycles := rfl

@[simp] theorem returnFromException_totalCycles (s : State) :
    (returnFromException s).totalCycles = s.totalCycles := rfl

@[simp] theorem returnFromException_nmiPending (s : State) :
    (returnFromException s).nmiPending = ((pull (pull (pull s).2).2).2).nmiPending := rfl

@[simp] theorem returnFromException_irqPending (s : State) :
    (returnFromException s).irqPending = ((pull (pull (pull s).2).2).2).irqPending := rfl

@[simp] theorem returnFromException_runState (s : State) :
    (returnFromException s).runState = s.runState := rfl

@[simp] theorem returnFromException_fault (s : State) :
    (returnFromException s).fault = s.fault := rfl

@[simp] theorem returnFromException_devices (s : State) :
    (returnFromException s).devices = ((pull (pull (pull s).2).2).2).devices := rfl

@[simp] theorem returnFromException_io (s : State) :
    (returnFromException s).io = ((pull (pull (pull s).2).2).2).io := rfl

@[simp] theorem returnFromException_clockCalls (s : State) :
    (returnFromException s).clockCalls = s.clockCalls := rfl

/-! requests. -/

/-- A latch after requests: as before, or the handle of one of them. -/
theorem latchAfter_cases (faulted : Bool) (kind : InterruptKind) (rs : List Request) (latch : Option Handle) :
    latchAfter faulted kind rs latch = latch ∨ ∃ r ∈ rs, latchAfter faulted kind rs latch = some r.source := by
  induction rs generalizing latch with
  | nil => exact .inl rfl
  | cons r rest ih =>
    unfold latchAfter
    rcases ih (if !faulted && r.kind == kind then some r.source else latch) with h | ⟨q, hq, h⟩
    · rw [h]
      split
      · exact .inr ⟨r, List.mem_cons_self, rfl⟩
      · exact .inl rfl
    · exact .inr ⟨q, List.mem_cons_of_mem _ hq, h⟩

@[simp] theorem latchAfter_nil (faulted : Bool) (kind : InterruptKind) (latch : Option Handle) :
    latchAfter faulted kind [] latch = latch := rfl

/-- A faulted CPU ignores every request. -/
@[simp] theorem latchAfter_faulted (kind : InterruptKind) (rs : List Request) (latch : Option Handle) :
    latchAfter true kind rs latch = latch := by
  induction rs with
  | nil => rfl
  | cons r rest ih => simpa [latchAfter] using ih

theorem request_of_fault (kind : InterruptKind) (h : Handle) {s : State} {f : Fault} (hf : s.fault = some f) :
    request kind h s = s := by
  cases s
  cases hf
  simp [request]

/-- An access without a request. -/
theorem afterAccess_quiet (devices : List Device) (io : HostIO) (s : State) :
    afterAccess { devices := devices, io := io, requests := [] } s = { s with devices := devices, io := io } := rfl

/-- What the two request bits of a byte leave in the latches. -/
theorem latchAfter_requestsOf (k : Nat) (v : Byte) (nmi irq : Option Handle) :
    latchAfter false .nmi (requestsFrom k (requestsOf v)) nmi = (if v.getLsbD 0 = true then some (.device k) else nmi) ∧
      latchAfter false .irq (requestsFrom k (requestsOf v)) irq = (if v.getLsbD 1 = true then some (.device k) else irq) := by
  unfold requestsOf
  cases v.getLsbD 0 <;> cases v.getLsbD 1 <;> exact ⟨rfl, rfl⟩

end Sys2Proof.Machine
end

