-- ==== Sys2Proof/Laws/Ops.lean ====
section
/-!
SUPPORT. What each shared operation of Machine/Ops.lean and Machine/Operands.lean can do: the operations that read leave every register
and every byte of memory; the ones that write leave every register to the fields Laws/State.lean names.
-/

namespace Sys2Proof.Machine

/-! The values read, each down to the Bus reads it makes. -/

theorem memRead_fst (s : State) (a : Addr) : (memRead s a).1 = (busRead s.devices s.io a).1 := rfl

theorem pull_fst (s : State) : (pull s).1 = (memRead s (stackAddr (s.sp + 1))).1 := rfl

theorem readWord_fst (s : State) (a : Addr) :
    (readWord s a).1 = word (memRead (memRead s a).2 (a + 1)).1 (memRead s a).1 := rfl

@[simp] theorem memRead_memoryByte (s : State) (a b : Addr) :
    memoryByte (memRead s a).2.devices b = memoryByte s.devices b := memoryByte_busRead s.devices s.io a b

theorem pullWord_fst (s : State) : (pullWord s).1 = word (pull (pull s).2).1 (pull s).1 := rfl

/-! effectiveAddress: a read. -/

@[simp] theorem effectiveAddress_cfg (m : Mem) (s : State) : (effectiveAddress m s).2.cfg = s.cfg := by
  cases m <;> rfl

@[simp] theorem effectiveAddress_a (m : Mem) (s : State) : (effectiveAddress m s).2.a = s.a := by
  cases m <;> rfl

@[simp] theorem effectiveAddress_x (m : Mem) (s : State) : (effectiveAddress m s).2.x = s.x := by
  cases m <;> rfl

@[simp] theorem effectiveAddress_y (m : Mem) (s : State) : (effectiveAddress m s).2.y = s.y := by
  cases m <;> rfl

@[simp] theorem effectiveAddress_sp (m : Mem) (s : State) : (effectiveAddress m s).2.sp = s.sp := by
  cases m <;> rfl

@[simp] theorem effectiveAddress_pc (m : Mem) (s : State) : (effectiveAddress m s).2.pc = s.pc := by
  cases m <;> rfl

@[simp] theorem effectiveAddress_p (m : Mem) (s : State) : (effectiveAddress m s).2.p = s.p := by
  cases m <;> rfl

@[simp] theorem effectiveAddress_instrCycles (m : Mem) (s : State) : (effectiveAddress m s).2.instrCycles = s.instrCycles := by
  cases m <;> rfl

@[simp] theorem effectiveAddress_totalCycles (m : Mem) (s : State) : (effectiveAddress m s).2.totalCycles = s.totalCycles := by
  cases m <;> rfl

@[simp] theorem effectiveAddress_runState (m : Mem) (s : State) : (effectiveAddress m s).2.runState = s.runState := by
  cases m <;> rfl

@[simp] theorem effectiveAddress_fault (m : Mem) (s : State) : (effectiveAddress m s).2.fault = s.fault := by
  cases m <;> rfl

@[simp] theorem effectiveAddress_clockCalls (m : Mem) (s : State) : (effectiveAddress m s).2.clockCalls = s.clockCalls := by
  cases m <;> rfl

@[simp] theorem effectiveAddress_memoryByte (m : Mem) (s : State) (b : Addr) :
    memoryByte (effectiveAddress m s).2.devices b = memoryByte s.devices b := by
  cases m <;> simp [effectiveAddress]

/-! indirectTarget: a read. -/

@[simp] theorem indirectTarget_cfg (a : Addr) (s : State) : (indirectTarget a s).2.cfg = s.cfg := by
  rfl

@[simp] theorem indirectTarget_a (a : Addr) (s : State) : (indirectTarget a s).2.a = s.a := by
  rfl

@[simp] theorem indirectTarget_x (a : Addr) (s : State) : (indirectTarget a s).2.x = s.x := by
  rfl

@[simp] theorem indirectTarget_y (a : Addr) (s : State) : (indirectTarget a s).2.y = s.y := by
  rfl

@[simp] theorem indirectTarget_sp (a : Addr) (s : State) : (indirectTarget a s).2.sp = s.sp := by
  rfl

@[simp] theorem indirectTarget_pc (a : Addr) (s : State) : (indirectTarget a s).2.pc = s.pc := by
  rfl

@[simp] theorem indirectTarget_p (a : Addr) (s : State) : (indirectTarget a s).2.p = s.p := by
  rfl

@[simp] theorem indirectTarget_instrCycles (a : Addr) (s : State) : (indirectTarget a s).2.instrCycles = s.instrCycles := by
  rfl

@[simp] theorem indirectTarget_totalCycles (a : Addr) (s : State) : (indirectTarget a s).2.totalCycles = s.totalCycles := by
  rfl

@[simp] theorem indirectTarget_runState (a : Addr) (s : State) : (indirectTarget a s).2.runState = s.runState := by
  rfl

@[simp] theorem indirectTarget_fault (a : Addr) (s : State) : (indirectTarget a s).2.fault = s.fault := by
  rfl

@[simp] theorem indirectTarget_clockCalls (a : Addr) (s : State) : (indirectTarget a s).2.clockCalls = s.clockCalls := by
  rfl

@[simp] theorem indirectTarget_memoryByte (a : Addr) (s : State) (b : Addr) :
    memoryByte (indirectTarget a s).2.devices b = memoryByte s.devices b := by
  simp [indirectTarget]

/-! loadMem: a read. -/

@[simp] theorem loadMem_cfg (m : Mem) (s : State) : (loadMem m s).2.cfg = s.cfg := by
  simp [loadMem]

@[simp] theorem loadMem_a (m : Mem) (s : State) : (loadMem m s).2.a = s.a := by
  simp [loadMem]

@[simp] theorem loadMem_x (m : Mem) (s : State) : (loadMem m s).2.x = s.x := by
  simp [loadMem]

@[simp] theorem loadMem_y (m : Mem) (s : State) : (loadMem m s).2.y = s.y := by
  simp [loadMem]

@[simp] theorem loadMem_sp (m : Mem) (s : State) : (loadMem m s).2.sp = s.sp := by
  simp [loadMem]

@[simp] theorem loadMem_pc (m : Mem) (s : State) : (loadMem m s).2.pc = s.pc := by
  simp [loadMem]

@[simp] theorem loadMem_p (m : Mem) (s : State) : (loadMem m s).2.p = s.p := by
  simp [loadMem]

@[simp] theorem loadMem_instrCycles (m : Mem) (s : State) : (loadMem m s).2.instrCycles = s.instrCycles := by
  simp [loadMem]

@[simp] theorem loadMem_totalCycles (m : Mem) (s : State) : (loadMem m s).2.totalCycles = s.totalCycles := by
  simp [loadMem]

@[simp] theorem loadMem_runState (m : Mem) (s : State) : (loadMem m s).2.runState = s.runState := by
  simp [loadMem]

@[simp] theorem loadMem_fault (m : Mem) (s : State) : (loadMem m s).2.fault = s.fault := by
  simp [loadMem]

@[simp] theorem loadMem_clockCalls (m : Mem) (s : State) : (loadMem m s).2.clockCalls = s.clockCalls := by
  simp [loadMem]

@[simp] theorem loadMem_memoryByte (m : Mem) (s : State) (b : Addr) :
    memoryByte (loadMem m s).2.devices b = memoryByte s.devices b := by
  simp [loadMem]

/-! load: a read. -/

@[simp] theorem load_cfg (src : Src) (s : State) : (load src s).2.cfg = s.cfg := by
  cases src <;> simp [load]

@[simp] theorem load_a (src : Src) (s : State) : (load src s).2.a = s.a := by
  cases src <;> simp [load]

@[simp] theorem load_x (src : Src) (s : State) : (load src s).2.x = s.x := by
  cases src <;> simp [load]

@[simp] theorem load_y (src : Src) (s : State) : (load src s).2.y = s.y := by
  cases src <;> simp [load]

@[simp] theorem load_sp (src : Src) (s : State) : (load src s).2.sp = s.sp := by
  cases src <;> simp [load]

@[simp] theorem load_pc (src : Src) (s : State) : (load src s).2.pc = s.pc := by
  cases src <;> simp [load]

@[simp] theorem load_p (src : Src) (s : State) : (load src s).2.p = s.p := by
  cases src <;> simp [load]

@[simp] theorem load_instrCycles (src : Src) (s : State) : (load src s).2.instrCycles = s.instrCycles := by
  cases src <;> simp [load]

@[simp] theorem load_totalCycles (src : Src) (s : State) : (load src s).2.totalCycles = s.totalCycles := by
  cases src <;> simp [load]

@[simp] theorem load_runState (src : Src) (s : State) : (load src s).2.runState = s.runState := by
  cases src <;> simp [load]

@[simp] theorem load_fault (src : Src) (s : State) : (load src s).2.fault = s.fault := by
  cases src <;> simp [load]

@[simp] theorem load_clockCalls (src : Src) (s : State) : (load src s).2.clockCalls = s.clockCalls := by
  cases src <;> simp [load]

@[simp] theorem load_memoryByte (src : Src) (s : State) (b : Addr) :
    memoryByte (load src s).2.devices b = memoryByte s.devices b := by
  cases src <;> simp [load]

/-! store: its registers. -/

@[simp] theorem store_cfg (m : Mem) (v : Byte) (s : State) : (store m v s).cfg = s.cfg := by
  simp [store]

@[simp] theorem store_a (m : Mem) (v : Byte) (s : State) : (store m v s).a = s.a := by
  simp [store]

@[simp] theorem store_x (m : Mem) (v : Byte) (s : State) : (store m v s).x = s.x := by
  simp [store]

@[simp] theorem store_y (m : Mem) (v : Byte) (s : State) : (store m v s).y = s.y := by
  simp [store]

@[simp] theorem store_sp (m : Mem) (v : Byte) (s : State) : (store m v s).sp = s.sp := by
  simp [store]

@[simp] theorem store_pc (m : Mem) (v : Byte) (s : State) : (store m v s).pc = s.pc := by
  simp [store]

@[simp] theorem store_p (m : Mem) (v : Byte) (s : State) : (store m v s).p = s.p := by
  simp [store]

@[simp] theorem store_instrCycles (m : Mem) (v : Byte) (s : State) : (store m v s).instrCycles = s.instrCycles := by
  simp [store]

@[simp] theorem store_totalCycles (m : Mem) (v : Byte) (s : State) : (store m v s).totalCycles = s.totalCycles := by
  simp [store]

@[simp] theorem store_runState (m : Mem) (v : Byte) (s : State) : (store m v s).runState = s.runState := by
  simp [store]

@[simp] theorem store_fault (m : Mem) (v : Byte) (s : State) : (store m v s).fault = s.fault := by
  simp [store]

@[simp] theorem store_clockCalls (m : Mem) (v : Byte) (s : State) : (store m v s).clockCalls = s.clockCalls := by
  simp [store]

/-! modifyMem: its registers. -/

@[simp] theorem modifyMem_cfg (op : Modify) (m : Mem) (s : State) : (modifyMem op m s).cfg = s.cfg := by
  simp [modifyMem]

@[simp] theorem modifyMem_a (op : Modify) (m : Mem) (s : State) : (modifyMem op m s).a = s.a := by
  simp [modifyMem]

@[simp] theorem modifyMem_x (op : Modify) (m : Mem) (s : State) : (modifyMem op m s).x = s.x := by
  simp [modifyMem]

@[simp] theorem modifyMem_y (op : Modify) (m : Mem) (s : State) : (modifyMem op m s).y = s.y := by
  simp [modifyMem]

@[simp] theorem modifyMem_sp (op : Modify) (m : Mem) (s : State) : (modifyMem op m s).sp = s.sp := by
  simp [modifyMem]

@[simp] theorem modifyMem_pc (op : Modify) (m : Mem) (s : State) : (modifyMem op m s).pc = s.pc := by
  simp [modifyMem]

@[simp] theorem modifyMem_instrCycles (op : Modify) (m : Mem) (s : State) : (modifyMem op m s).instrCycles = s.instrCycles := by
  simp [modifyMem]

@[simp] theorem modifyMem_totalCycles (op : Modify) (m : Mem) (s : State) : (modifyMem op m s).totalCycles = s.totalCycles := by
  simp [modifyMem]

@[simp] theorem modifyMem_runState (op : Modify) (m : Mem) (s : State) : (modifyMem op m s).runState = s.runState := by
  simp [modifyMem]

@[simp] theorem modifyMem_fault (op : Modify) (m : Mem) (s : State) : (modifyMem op m s).fault = s.fault := by
  simp [modifyMem]

@[simp] theorem modifyMem_clockCalls (op : Modify) (m : Mem) (s : State) : (modifyMem op m s).clockCalls = s.clockCalls := by
  simp [modifyMem]

@[simp] theorem modifyMem_p (op : Modify) (m : Mem) (s : State) :
    (modifyMem op m s).p = (op (loadMem m s).1 s.p).2 := by
  simp [modifyMem, loadMem]

/-! clearLatch. -/

@[simp] theorem clearLatch_cfg (kind : InterruptKind) (s : State) : (clearLatch kind s).cfg = s.cfg := by
  cases kind <;> rfl

@[simp] theorem clearLatch_a (kind : InterruptKind) (s : State) : (clearLatch kind s).a = s.a := by
  cases kind <;> rfl

@[simp] theorem clearLatch_x (kind : InterruptKind) (s : State) : (clearLatch kind s).x = s.x := by
  cases kind <;> rfl

@[simp] theorem clearLatch_y (kind : InterruptKind) (s : State) : (clearLatch kind s).y = s.y := by
  cases kind <;> rfl

@[simp] theorem clearLatch_sp (kind : InterruptKind) (s : State) : (clearLatch kind s).sp = s.sp := by
  cases kind <;> rfl

@[simp] theorem clearLatch_pc (kind : InterruptKind) (s : State) : (clearLatch kind s).pc = s.pc := by
  cases kind <;> rfl

@[simp] theorem clearLatch_p (kind : InterruptKind) (s : State) : (clearLatch kind s).p = s.p := by
  cases kind <;> rfl

@[simp] theorem clearLatch_instrCycles (kind : InterruptKind) (s : State) : (clearLatch kind s).instrCycles = s.instrCycles := by
  cases kind <;> rfl

@[simp] theorem clearLatch_totalCycles (kind : InterruptKind) (s : State) : (clearLatch kind s).totalCycles = s.totalCycles := by
  cases kind <;> rfl

@[simp] theorem clearLatch_runState (kind : InterruptKind) (s : State) : (clearLatch kind s).runState = s.runState := by
  cases kind <;> rfl

@[simp] theorem clearLatch_fault (kind : InterruptKind) (s : State) : (clearLatch kind s).fault = s.fault := by
  cases kind <;> rfl

@[simp] theorem clearLatch_clockCalls (kind : InterruptKind) (s : State) : (clearLatch kind s).clockCalls = s.clockCalls := by
  cases kind <;> rfl

@[simp] theorem clearLatch_devices (kind : InterruptKind) (s : State) : (clearLatch kind s).devices = s.devices := by
  cases kind <;> rfl

@[simp] theorem clearLatch_io (kind : InterruptKind) (s : State) : (clearLatch kind s).io = s.io := by
  cases kind <;> rfl

/-- The serviced latch is emptied, the other kept. -/
theorem clearLatch_pending (kind : InterruptKind) (s : State) :
    (clearLatch kind s).nmiPending = (if kind = .nmi then none else s.nmiPending) ∧
      (clearLatch kind s).irqPending = (if kind = .irq then none else s.irqPending) := by
  cases kind <;> simp [clearLatch]

end Sys2Proof.Machine
end

