-- ==== Sys2Proof/Laws/Stores.lean ====
section
/-!
SUPPORT. The predicates of the statements (namespace Claims) for the shared operations: what a read leaves alone, what a write stores and
where, and what memory holds after pushes to RAM.
-/

namespace Sys2Proof.Claims

open Sys2Proof.Machine

/-! ## Reads -/

theorem OnlyRead.refl (d : Device) : OnlyRead d d := .inl rfl

theorem OnlyRead.trans {d e f : Device} (h1 : OnlyRead d e) (h2 : OnlyRead e f) : OnlyRead d f := by
  rcases h1 with rfl | ⟨range, calls, gets, rfl, rfl, h1⟩
  · exact h2
  · rcases h2 with rfl | ⟨range', calls', gets', e', rfl, h2⟩
    · exact .inr ⟨range, calls, gets, rfl, rfl, h1⟩
    · cases e'
      refine .inr ⟨range, calls, gets' ++ gets, rfl, by rw [List.append_assoc], fun c hc => ?_⟩
      rcases List.mem_append.1 hc with hc | hc
      · exact h2 c hc
      · exact h1 c hc

theorem OnlyRead.deviceContains {d e : Device} (h : OnlyRead d e) (a : Addr) : deviceContains e a = deviceContains d a := by
  rcases h with rfl | ⟨range, calls, gets, rfl, rfl, -⟩ <;> rfl

/-- A state whose devices and host's side are those of one that stores nothing. -/
theorem StoresNothing.of_eq {s u t : State} (h : StoresNothing s u) (hd : t.devices = u.devices) (hi : t.io = u.io) :
    StoresNothing s t := by
  unfold StoresNothing at *
  rwa [hd, hi]

theorem StoresNothing.refl (s : State) : StoresNothing s s :=
  ⟨fun _ => rfl, rfl, fun _ d h => ⟨d, h, .refl d⟩, fun _ => rfl⟩

/-- No device of R308 appears. -/
theorem StoresNothing.no_other {s t : State} (h : StoresNothing s t) (hs : ∀ range calls, .other range calls ∉ s.devices) :
    ∀ range calls, .other range calls ∉ t.devices := by
  intro range calls hm
  obtain ⟨k, hk, he⟩ := List.getElem_of_mem hm
  have hs' : s.devices[k]? = some (s.devices[k]'(h.2.1 ▸ hk)) := List.getElem?_eq_getElem _
  obtain ⟨e, he', ho⟩ := h.2.2.1 k _ hs'
  rw [List.getElem?_eq_getElem hk, he] at he'
  cases he'
  rcases ho with ho | ⟨range', calls', gets, ho, -, -⟩
  · exact hs range calls (ho ▸ List.getElem_mem _)
  · exact hs range' calls' (ho ▸ List.getElem_mem _)

theorem StoresNothing.trans {s t u : State} (h1 : StoresNothing s t) (h2 : StoresNothing t u) : StoresNothing s u := by
  refine ⟨fun a => (h2.1 a).trans (h1.1 a), h2.2.1.trans h1.2.1, fun k d hd => ?_, fun hs => ?_⟩
  · obtain ⟨e, he, ho⟩ := h1.2.2.1 k d hd
    obtain ⟨f, hf, ho'⟩ := h2.2.2.1 k e he
    exact ⟨f, hf, ho.trans ho'⟩
  · exact (h2.2.2.2 (h1.no_other hs)).trans (h1.2.2.2 hs)

/-- RAM that answers an address still answers it after reads. -/
theorem StoresNothing.ramAt {s t : State} (h : StoresNothing s t) {a : Addr} (hr : RamAt s.devices a) : RamAt t.devices a := by
  obtain ⟨lo, hi, cells, hr⟩ := hr
  refine ⟨lo, hi, cells, ?_⟩
  have key : ∀ (ds es : List Device), es.length = ds.length →
      (∀ (k : Nat) (d : Device), ds[k]? = some d → ∃ e, es[k]? = some e ∧ OnlyRead d e) →
      ds.find? (fun d => deviceContains d a) = some (.ram lo hi cells) →
      es.find? (fun d => deviceContains d a) = some (.ram lo hi cells) := by
    intro ds
    induction ds with
    | nil =>
      intro es _ _ hf
      simp at hf
    | cons d rest ih =>
      intro es hl hk hf
      cases es with
      | nil => simp at hl
      | cons e es =>
        obtain ⟨e', he', ho⟩ := hk 0 d rfl
        obtain rfl : e = e' := by simpa using he'
        have hrest := ih es (by simpa using hl) (fun k f hf' => hk (k + 1) f hf')
        have hc := ho.deviceContains a
        cases hca : deviceContains d a
        · rw [List.find?_cons_of_neg (by simp [hca])] at hf
          rw [List.find?_cons_of_neg (by simp [hc, hca])]
          exact hrest hf
        · rw [List.find?_cons_of_pos (by simpa using hca)] at hf
          rw [List.find?_cons_of_pos (by simp [hc, hca])]
          obtain rfl : d = .ram lo hi cells := by simpa using hf
          rcases ho with rfl | ⟨_, _, _, ho, -, -⟩
          · rfl
          · cases ho
  exact key _ _ h.2.1 h.2.2.1 hr

end Sys2Proof.Claims

namespace Sys2Proof.Machine

open Sys2Proof.Claims

/-- One `get` reads the device at most. -/
theorem deviceGet_onlyRead (d : Device) (a : Addr) (io : HostIO) : OnlyRead d (deviceGet d a io).2.device := by
  rcases deviceGet_cases d a io with h | ⟨range, calls, rfl, h⟩
  · rw [h]
    exact .inl rfl
  · rw [h]
    exact .inr ⟨range, calls, [.get a], rfl, rfl, fun c hc => ⟨a, by simpa using hc⟩⟩

/-- A device that is not of R308 emits no event when it is read. -/
theorem busReadFrom_events (n : Nat) (devices : List Device) (io : HostIO) (a : Addr)
    (h : ∀ range calls, .other range calls ∉ devices) : (busReadFrom n devices io a).2.io.events = io.events := by
  induction devices generalizing n with
  | nil => rfl
  | cons d rest ih =>
    unfold busReadFrom
    split
    · rcases deviceGet_cases d a io with e | ⟨range, calls, rfl, -⟩
      · simp [e]
      · exact absurd List.mem_cons_self (h range calls)
    · exact ih (n + 1) fun range calls hm => h range calls (List.mem_cons_of_mem _ hm)

theorem memRead_storesNothing (s : State) (a : Addr) : StoresNothing s (memRead s a).2 := by
  refine ⟨fun b => memRead_memoryByte s a b, busRead_length _ _ _, fun k d hd => ?_, busReadFrom_events 0 s.devices s.io a⟩
  rcases busReadFrom_getElem 0 s.devices s.io a k d hd with h | ⟨-, h⟩
  · exact ⟨_, h, .refl d⟩
  · exact ⟨_, h, deviceGet_onlyRead d a s.io⟩

/-! A read during a reset: the byte and the devices of any read, and no event (R372). -/

@[simp] theorem resetRead_fst (s : State) (a : Addr) : (resetRead s a).1 = (memRead s a).1 := rfl

@[simp] theorem resetRead_devices (s : State) (a : Addr) : (resetRead s a).2.devices = (memRead s a).2.devices := rfl

@[simp] theorem resetRead_events (s : State) (a : Addr) : (resetRead s a).2.io.events = s.io.events := by
  simp only [resetRead]
  split
  · exact registerGet_events _ a s.io
  · rfl

theorem resetRead_storesNothing (s : State) (a : Addr) : StoresNothing s (resetRead s a).2 :=
  have h := memRead_storesNothing s a
  ⟨h.1, h.2.1, h.2.2.1, fun _ => resetRead_events s a⟩

theorem resetReadWord_storesNothing (s : State) (a : Addr) : StoresNothing s (resetReadWord s a).2 :=
  (resetRead_storesNothing s a).trans (resetRead_storesNothing _ (a + 1))

@[simp] theorem resetReadWord_events (s : State) (a : Addr) : (resetReadWord s a).2.io.events = s.io.events := by
  simp [resetReadWord]

theorem pull_storesNothing (s : State) : StoresNothing s (pull s).2 :=
  (memRead_storesNothing s (stackAddr (s.sp + 1))).of_eq rfl rfl

theorem fetch_storesNothing (s : State) : StoresNothing s (fetch s).2 := (memRead_storesNothing s s.pc).of_eq rfl rfl

theorem readWord_storesNothing (s : State) (a : Addr) : StoresNothing s (readWord s a).2 :=
  (memRead_storesNothing s a).trans (memRead_storesNothing _ (a + 1))

theorem pullWord_storesNothing (s : State) : StoresNothing s (pullWord s).2 :=
  (pull_storesNothing s).trans (pull_storesNothing _)

theorem returnFromException_storesNothing (s : State) : StoresNothing s (returnFromException s) :=
  (((pull_storesNothing s).trans (pull_storesNothing _)).trans (pull_storesNothing _)).of_eq rfl rfl

theorem effectiveAddress_storesNothing (m : Mem) (s : State) : StoresNothing s (effectiveAddress m s).2 := by
  cases m with
  | indexedIndirectX z => exact (memRead_storesNothing s _).trans (memRead_storesNothing _ _)
  | indirectIndexedY z => exact (memRead_storesNothing s _).trans (memRead_storesNothing _ _)
  | _ => exact .refl s

theorem indirectTarget_storesNothing (a : Addr) (s : State) : StoresNothing s (indirectTarget a s).2 :=
  (memRead_storesNothing s a).trans (memRead_storesNothing _ _)

theorem loadMem_storesNothing (m : Mem) (s : State) : StoresNothing s (loadMem m s).2 :=
  (effectiveAddress_storesNothing m s).trans (memRead_storesNothing _ _)

theorem load_storesNothing (src : Src) (s : State) : StoresNothing s (load src s).2 := by
  cases src with
  | immediate v => exact .refl s
  | mem m => exact loadMem_storesNothing m s

/-- A state that differs from `u`, reached from `s` by reads, in no device, nor in the host's side or a latch. -/
theorem readsOnly_of {u s t : State} (h : StoresNothing s u) (hs : SameSide u t) : ReadsOnly u s t :=
  ⟨fun a => by rw [hs.1, h.1 a], hs⟩

/-! ## Writes -/

/-- A Bus write leaves alike what it finds alike. -/
theorem sameSide_memWrite {u t : State} (a : Addr) (v : Byte) (h : SameSide u t) (hf : t.fault = u.fault) :
    SameSide (memWrite u a v) (memWrite t a v) := by
  obtain ⟨hd, hi, hn, hq⟩ := h
  simp only [SameSide, memWrite_devices, memWrite_io, memWrite_nmiPending, memWrite_irqPending, hd, hi, hn, hq, hf, and_self]

/-- A Bus read finds and leaves alike what it finds alike. -/
theorem sameSide_memRead {u t : State} (a : Addr) (h : SameSide u t) (hf : t.fault = u.fault) :
    (memRead t a).1 = (memRead u a).1 ∧ SameSide (memRead u a).2 (memRead t a).2 := by
  obtain ⟨hd, hi, hn, hq⟩ := h
  simp only [SameSide, memRead_fst, memRead_devices, memRead_io, memRead_nmiPending, memRead_irqPending, hd, hi, hn, hq, hf,
    and_self]

/-- The same for a push, where SP is alike too. -/
theorem sameSide_push {u t : State} (v : Byte) (h : SameSide u t) (hf : t.fault = u.fault) (hsp : t.sp = u.sp) :
    SameSide (push v u) (push v t) := by
  simp only [SameSide, push_devices, push_io, push_nmiPending, push_irqPending, hsp]
  exact sameSide_memWrite (stackAddr u.sp) v h hf

/-- The same for a word. -/
theorem sameSide_readWord {u t : State} (a : Addr) (h : SameSide u t) (hf : t.fault = u.fault) :
    (readWord t a).1 = (readWord u a).1 ∧ SameSide (readWord u a).2 (readWord t a).2 := by
  obtain ⟨h1, h2⟩ := sameSide_memRead a h hf
  obtain ⟨h3, h4⟩ := sameSide_memRead (a + 1) h2 (by simp [hf])
  exact ⟨by rw [readWord_fst, readWord_fst, h1, h3], h4⟩

/-- One Bus write, after reads that led from `s` to `u`, stores that byte and nothing else. -/
theorem storesAt_of {s u t : State} {a : Addr} {v : Byte} (h : StoresNothing s u) (hs : SameSide (memWrite u a v) t) :
    StoresAt a v s u t := by
  refine ⟨fun b hb => ?_, fun hr => ?_, ?_, fun k d hk hc => ?_, hs⟩
  · rw [hs.1, ← h.1 b]
    exact memoryByte_busWriteFrom_other 0 u.devices u.io v hb
  · obtain ⟨lo, hi, cells, hr⟩ := h.ramAt hr
    rw [hs.1]
    exact memoryByte_busWriteFrom_same 0 u.devices u.io v hr
  · rw [hs.1, ← h.2.1]
    exact busWrite_length _ _ _ _
  · rw [hs.1]
    exact (busWriteFrom_getElem 0 u.devices u.io a v k d hk).1 hc

theorem memWrite_storesAt (s : State) (a : Addr) (v : Byte) : StoresAt a v s s (memWrite s a v) :=
  storesAt_of (.refl s) ⟨rfl, rfl, rfl, rfl⟩

theorem push_storesAt (v : Byte) (s : State) : StoresAt (stackAddr s.sp) v s s (push v s) :=
  storesAt_of (.refl s) ⟨rfl, rfl, rfl, rfl⟩

theorem store_storesAt (m : Mem) (v : Byte) (s : State) :
    StoresAt (effectiveAddress m s).1 v s (effectiveAddress m s).2 (store m v s) :=
  storesAt_of (effectiveAddress_storesNothing m s) ⟨rfl, rfl, rfl, rfl⟩

theorem modifyMem_storesAt (op : Modify) (m : Mem) (s : State) :
    StoresAt (effectiveAddress m s).1 (op (loadMem m s).1 s.p).1 s (loadMem m s).2 (modifyMem op m s) := by
  unfold modifyMem
  exact storesAt_of (loadMem_storesNothing m s) (sameSide_memWrite _ _ ⟨rfl, rfl, rfl, rfl⟩ rfl)

/-- RAM that answers an address is still the one answering it after any write. -/
theorem ramAt_busWriteFrom {n : Nat} {devices : List Device} {a : Addr} (io : HostIO) (b : Addr) (v : Byte)
    (h : RamAt devices a) : RamAt (busWriteFrom n devices io b v).devices a := by
  obtain ⟨lo, hi, cells, h⟩ := h
  induction devices generalizing io n with
  | nil => simp at h
  | cons d rest ih =>
    unfold RamAt
    simp only [busWriteFrom]
    by_cases hc : deviceContains d a = true
    · obtain rfl : d = .ram lo hi cells := by simpa [hc] using h
      refine ⟨lo, hi, if deviceContains (.ram lo hi cells) b then cells.write b.toNat v else cells, ?_⟩
      rw [List.find?_cons_of_pos]
      · split <;> simp [deviceSet]
      · split
        · exact hc
        · exact hc
    · obtain ⟨lo', hi', cells', h'⟩ := ih (n := n + 1) _ (by simpa [hc] using h)
      refine ⟨lo', hi', cells', ?_⟩
      rw [List.find?_cons_of_neg]
      · exact h'
      · split <;> simp [hc]

theorem ramAt_push {s : State} {a : Addr} (v : Byte) (h : RamAt s.devices a) : RamAt (push v s).devices a :=
  ramAt_busWriteFrom s.io (stackAddr s.sp) v h

theorem memoryByte_push_other {s : State} {a : Addr} (v : Byte) (h : a ≠ stackAddr s.sp) :
    memoryByte (push v s).devices a = memoryByte s.devices a := (push_storesAt v s).1 a h

theorem memoryByte_push_same {s : State} (v : Byte) (h : RamAt s.devices (stackAddr s.sp)) :
    memoryByte (push v s).devices (stackAddr s.sp) = some v := (push_storesAt v s).2.1 h

/-- A read of memory gives the byte it holds and leaves the state. -/
theorem memRead_of_memoryByte {s : State} {a : Addr} {v : Byte} (h : memoryByte s.devices a = some v) :
    memRead s a = (v, s) := by
  simp only [memRead, busRead, busReadFrom_of_memoryByte 0 s.io h]
  rfl

/-- What answers where memory holds a byte asks nothing of the host. -/
theorem registerGet_of_memoryByte {devices : List Device} {a : Addr} {v : Byte} {d : Device} (io : HostIO)
    (h : memoryByte devices a = some v) (hd : devices.find? (fun d => deviceContains d a) = some d) :
    (registerGet d a io).2 = io := by
  induction devices with
  | nil => simp at hd
  | cons e rest ih =>
    simp only [memoryByte] at h
    split at h
    · rename_i hc
      obtain rfl : e = d := by simpa [hc] using hd
      cases e <;> simp_all [registerGet]
    · rename_i hc
      exact ih h (by simpa [hc] using hd)

/-- A read of memory during a reset gives the byte it holds and leaves the state. -/
theorem resetRead_of_memoryByte {s : State} {a : Addr} {v : Byte} (h : memoryByte s.devices a = some v) :
    resetRead s a = (v, s) := by
  simp only [resetRead, busRead, busReadFrom_of_memoryByte 0 s.io h]
  split
  · rename_i hd
    rw [registerGet_of_memoryByte s.io h hd]
  · rfl

/-- The stack address in numbers, and that it tells stack pointers apart. -/
theorem stackAddr_toNat (sp : Byte) : (stackAddr sp).toNat = 256 + sp.toNat := by
  revert sp
  decide

theorem stackAddr_inj {a b : Byte} (h : stackAddr a = stackAddr b) : a = b := by
  have h' := congrArg BitVec.toNat h
  rw [stackAddr_toNat, stackAddr_toNat] at h'
  exact BitVec.eq_of_toNat_eq (by omega)

/-- Pulling a byte that memory holds. -/
theorem pull_of_memoryByte {s : State} {v : Byte} (h : memoryByte s.devices (stackAddr (s.sp + 1)) = some v) :
    pull s = (v, { s with sp := s.sp + 1 }) :=
  memRead_of_memoryByte (s := { s with sp := s.sp + 1 }) h

/-- Pulling a word that memory holds, low byte first. -/
theorem pullWord_of_memoryByte {s : State} {lo hi : Byte}
    (hl : memoryByte s.devices (stackAddr (s.sp + 1)) = some lo)
    (hh : memoryByte s.devices (stackAddr (s.sp + 2)) = some hi) :
    pullWord s = (word hi lo, { s with sp := s.sp + 2 }) := by
  have e : s.sp + 1 + 1 = s.sp + 2 := by bv_omega
  rw [← e] at hh ⊢
  simp only [pullWord, pull_of_memoryByte hl]
  rw [pull_of_memoryByte (s := { s with sp := s.sp + 1 }) hh]

/-- What three pushes leave in memory: the bytes in RAM, and everything else. -/
theorem memoryByte_push_push_push (s : State) (u v w : Byte) :
    (∀ a, a ≠ stackAddr s.sp → a ≠ stackAddr (s.sp - 1) → a ≠ stackAddr (s.sp - 2) →
      memoryByte (push w (push v (push u s))).devices a = memoryByte s.devices a) ∧
    (RamAt s.devices (stackAddr s.sp) → memoryByte (push w (push v (push u s))).devices (stackAddr s.sp) = some u) ∧
    (RamAt s.devices (stackAddr (s.sp - 1)) →
      memoryByte (push w (push v (push u s))).devices (stackAddr (s.sp - 1)) = some v) ∧
    (RamAt s.devices (stackAddr (s.sp - 2)) →
      memoryByte (push w (push v (push u s))).devices (stackAddr (s.sp - 2)) = some w) := by
  have e1 : (push u s).sp = s.sp - 1 := rfl
  have e2 : (push v (push u s)).sp = s.sp - 2 := by
    show s.sp - 1 - 1 = s.sp - 2
    bv_omega
  have d01 : stackAddr s.sp ≠ stackAddr (s.sp - 1) := fun h => absurd (stackAddr_inj h) (by bv_omega)
  have d02 : stackAddr s.sp ≠ stackAddr (s.sp - 2) := fun h => absurd (stackAddr_inj h) (by bv_omega)
  have d12 : stackAddr (s.sp - 1) ≠ stackAddr (s.sp - 2) := fun h => absurd (stackAddr_inj h) (by bv_omega)
  refine ⟨fun a h0 h1 h2 => ?_, fun h => ?_, fun h => ?_, fun h => ?_⟩
  · rw [memoryByte_push_other w (by rwa [e2]), memoryByte_push_other v (by rwa [e1]), memoryByte_push_other u h0]
  · rw [memoryByte_push_other w (by rwa [e2]), memoryByte_push_other v (by rwa [e1]), memoryByte_push_same u h]
  · rw [memoryByte_push_other w (by rwa [e2]), ← e1,
      memoryByte_push_same v (by rw [e1]; exact ramAt_push u h)]
  · rw [← e2]
    exact memoryByte_push_same w (by rw [e2]; exact ramAt_push v (ramAt_push u h))

end Sys2Proof.Machine
end

