-- ==== Sys2Proof/Laws/Effect.lean ====
section
/-!
SUPPORT. What an instruction can do to the machine around the CPU, said once: it keeps the configuration, the call count and the devices'
kinds, ranges and canonical memories, and only adds events.
-/

namespace Sys2Proof.Machine

open Sys2Proof.Claims

/-- The devices `es` follow from `ds` by calls on them: same number, kinds and ranges, calls only recorded, canonical memories still
canonical. -/
def DevicesKept (ds es : List Device) : Prop :=
  es.length = ds.length ∧
    ∀ (k : Nat) (d : Device), ds[k]? = some d → ∃ e, es[k]? = some e ∧ SameDevice d e ∧ (MemoryOk d → MemoryOk e)

theorem sameDevice_refl (d : Device) : SameDevice d d := by
  cases d <;> simp [SameDevice]

theorem sameDevice_trans {d e f : Device} (h1 : SameDevice d e) (h2 : SameDevice e f) : SameDevice d f := by
  cases d <;> cases e <;> try exact h1.elim
  all_goals
    cases f <;> try exact h2.elim
  case other.other.other =>
    obtain ⟨rfl, m, rfl⟩ := h1
    obtain ⟨rfl, n, rfl⟩ := h2
    exact ⟨rfl, n ++ m, (List.append_assoc _ _ _).symm⟩
  all_goals simp_all [SameDevice]

theorem DevicesKept.refl (ds : List Device) : DevicesKept ds ds :=
  ⟨rfl, fun _ d h => ⟨d, h, sameDevice_refl d, id⟩⟩

theorem DevicesKept.trans {ds es fs : List Device} (h1 : DevicesKept ds es) (h2 : DevicesKept es fs) : DevicesKept ds fs := by
  refine ⟨h2.1.trans h1.1, fun k d hd => ?_⟩
  obtain ⟨e, he, hs, hm⟩ := h1.2 k d hd
  obtain ⟨f, hf, hs', hm'⟩ := h2.2 k e he
  exact ⟨f, hf, sameDevice_trans hs hs', hm' ∘ hm⟩

/-- A device write keeps the device and the canonical form of its memory. -/
theorem deviceSet_kept (d : Device) (a : Addr) (v : Byte) (io : HostIO) (hc : deviceContains d a = true) :
    SameDevice d (deviceSet d a v io).device ∧ (MemoryOk d → MemoryOk (deviceSet d a v io).device) := by
  cases d with
  | ram lo hi cells =>
    refine ⟨⟨rfl, rfl⟩, fun h => ⟨Memory.wf_write _ _ h.1, fun c hm => ?_⟩⟩
    simp only [deviceContains, deviceRange, Bool.and_eq_true, decide_eq_true_eq] at hc
    rcases Memory.mem_write hm with hm | hm
    · exact h.2 c hm
    · rw [hm]
      exact hc
  | parallel start data =>
    by_cases h0 : registerOffset start a = 0 <;> simp [deviceSet, h0, SameDevice, MemoryOk]
  | other range calls => exact ⟨⟨rfl, [.set a v], rfl⟩, id⟩
  | _ => simp [deviceSet, SameDevice, MemoryOk]

theorem OnlyRead.kept {d e : Device} (h : OnlyRead d e) : SameDevice d e ∧ (MemoryOk d → MemoryOk e) := by
  rcases h with rfl | ⟨range, calls, gets, rfl, rfl, -⟩
  · exact ⟨sameDevice_refl _, id⟩
  · exact ⟨⟨rfl, gets, rfl⟩, id⟩

theorem StoresNothing.kept {s t : State} (h : StoresNothing s t) : DevicesKept s.devices t.devices := by
  refine ⟨h.2.1, fun k d hd => ?_⟩
  obtain ⟨e, he, ho⟩ := h.2.2.1 k d hd
  exact ⟨e, he, OnlyRead.kept ho⟩

theorem busWrite_kept (devices : List Device) (io : HostIO) (a : Addr) (v : Byte) :
    DevicesKept devices (busWrite devices io a v).devices := by
  refine ⟨busWrite_length _ _ _ _, fun k d hd => ?_⟩
  cases hc : deviceContains d a
  · exact ⟨d, (busWriteFrom_getElem 0 devices io a v k d hd).1 hc, sameDevice_refl d, id⟩
  · obtain ⟨io', h⟩ := (busWriteFrom_getElem 0 devices io a v k d hd).2 hc
    exact ⟨_, h, deviceSet_kept d a v io' hc⟩

/-! ## Latches -/

theorem latchFrom_refl (ds es : List Device) (latch : Option Handle) : LatchFrom ds es latch latch := .inl rfl

/-- A device of R308 has stayed at its place and recorded calls. -/
theorem DevicesKept.other {ds es : List Device} (h : DevicesKept ds es) {k : Nat} {range : Option (Addr × Addr)}
    {calls : List DeviceCall} (he : es[k]? = some (.other range calls)) :
    ∃ old more, ds[k]? = some (.other range old) ∧ calls = more ++ old := by
  obtain ⟨hk, he'⟩ := List.getElem?_eq_some_iff.1 he
  have hd : ds[k]? = some (ds[k]'(h.1 ▸ hk)) := List.getElem?_eq_getElem _
  obtain ⟨e, hk', hs, -⟩ := h.2 k _ hd
  rw [he] at hk'
  cases hk'
  revert hs
  generalize ds[k]'(h.1 ▸ hk) = d at hd
  intro hs
  cases d <;> try exact hs.elim
  obtain ⟨rfl, more, e⟩ := hs
  exact ⟨_, more, hd, e⟩

/-- A device of R308 stays at its place and records calls. -/
theorem DevicesKept.other_after {ds es : List Device} (h : DevicesKept ds es) {k : Nat} {range : Option (Addr × Addr)}
    {calls : List DeviceCall} (hd : ds[k]? = some (.other range calls)) :
    ∃ more, es[k]? = some (.other range (more ++ calls)) := by
  obtain ⟨e, he, hs, -⟩ := h.2 k _ hd
  cases e <;> try exact hs.elim
  obtain ⟨rfl, more, rfl⟩ := hs
  exact ⟨more, he⟩

theorem latchFrom_trans {ds es fs : List Device} {a b c : Option Handle} (hd : DevicesKept ds es) (he : DevicesKept es fs)
    (h1 : LatchFrom ds es a b) (h2 : LatchFrom es fs b c) : LatchFrom ds fs a c := by
  rcases h2 with rfl | ⟨k, range, calls, more, hk, hf, ⟨x, hx, ha⟩, rfl⟩
  · rcases h1 with rfl | ⟨k, range, calls, more, hk, hs, ⟨x, hx, ha⟩, rfl⟩
    · exact .inl rfl
    · obtain ⟨new, hf⟩ := he.other_after hs
      exact .inr ⟨k, range, calls, new ++ more, hk, by rw [hf, List.append_assoc],
        ⟨x, List.mem_append_right _ hx, ha⟩, rfl⟩
  · obtain ⟨old, more', hk', rfl⟩ := hd.other hk
    exact .inr ⟨k, range, old, more ++ more', hk', by rw [hf, List.append_assoc], ⟨x, List.mem_append_left _ hx, ha⟩, rfl⟩

/-- A latch after requests that all come from devices of R308 at an access `c` to them. -/
theorem latchFrom_of_requests {ds es : List Device} {rs : List Request} {c : DeviceCall} (hc : IsAccess c) (faulted : Bool)
    (kind : InterruptKind) (latch : Option Handle)
    (h : ∀ r ∈ rs, ∃ k range calls, ds[k]? = some (.other range calls) ∧ es[k]? = some (.other range (c :: calls)) ∧
      r.source = .device (0 + k)) :
    LatchFrom ds es latch (latchAfter faulted kind rs latch) := by
  rcases latchAfter_cases faulted kind rs latch with e | ⟨r, hr, e⟩
  · exact .inl e
  · obtain ⟨k, range, calls, hk, hs, hr⟩ := h r hr
    exact .inr ⟨k, range, calls, [c], hk, hs, ⟨c, List.mem_singleton_self c, hc⟩, by rw [e, hr, Nat.zero_add]⟩

/-! ## Effects -/

/-- What the part of a step that runs instructions and takes interrupts may do to the rest of the machine. -/
structure Effect (s t : State) : Prop where
  cfg : t.cfg = s.cfg
  clockCalls : t.clockCalls = s.clockCalls
  devices : DevicesKept s.devices t.devices
  events : Appends s.io t.io

/-- What Bus accesses may do: of the latches, they only let devices of R308 fill them. -/
structure Access (s t : State) : Prop extends Effect s t where
  nmi : LatchFrom s.devices t.devices s.nmiPending t.nmiPending
  irq : LatchFrom s.devices t.devices s.irqPending t.irqPending

theorem Effect.refl (s : State) : Effect s s := ⟨rfl, rfl, DevicesKept.refl _, .refl _⟩

theorem Effect.trans {s t u : State} (h1 : Effect s t) (h2 : Effect t u) : Effect s u :=
  ⟨h2.cfg.trans h1.cfg, h2.clockCalls.trans h1.clockCalls, h1.devices.trans h2.devices, h1.events.trans h2.events⟩

/-- A state that reads like another in the fields an effect speaks of. -/
theorem Effect.of_eq {s u t : State} (h : Effect s u) (hc : t.cfg = u.cfg) (hn : t.clockCalls = u.clockCalls)
    (hd : t.devices = u.devices) (hi : t.io = u.io) : Effect s t :=
  ⟨hc.trans h.cfg, hn.trans h.clockCalls, by rw [hd]; exact h.devices, by rw [hi]; exact h.events⟩

theorem Access.refl (s : State) : Access s s := ⟨.refl s, latchFrom_refl _ _ _, latchFrom_refl _ _ _⟩

theorem Access.trans {s t u : State} (h1 : Access s t) (h2 : Access t u) : Access s u :=
  ⟨h1.toEffect.trans h2.toEffect, latchFrom_trans h1.devices h2.devices h1.nmi h2.nmi,
    latchFrom_trans h1.devices h2.devices h1.irq h2.irq⟩

/-- A state that has the configuration, the call count and all a Bus access can change from another. -/
theorem Access.of_eq {s u t : State} (h : Access s u) (hc : t.cfg = u.cfg) (hn : t.clockCalls = u.clockCalls)
    (hs : SameSide u t) : Access s t :=
  ⟨h.toEffect.of_eq hc hn hs.1 hs.2.1, by rw [hs.1, hs.2.2.1]; exact h.nmi,
    by rw [hs.1, hs.2.2.2]; exact h.irq⟩

theorem Access.memRead (s : State) (a : Addr) : Access s (memRead s a).2 :=
  ⟨⟨rfl, rfl, StoresNothing.kept (memRead_storesNothing s a), .busReadFrom 0 s.devices s.io a⟩,
    latchFrom_of_requests (.inl ⟨a, rfl⟩) _ _ _ (busReadFrom_requests 0 s.devices s.io a),
    latchFrom_of_requests (.inl ⟨a, rfl⟩) _ _ _ (busReadFrom_requests 0 s.devices s.io a)⟩

theorem Access.resetRead (s : State) (a : Addr) : Access s (resetRead s a).2 :=
  ⟨⟨rfl, rfl, StoresNothing.kept (resetRead_storesNothing s a), .of_eq (resetRead_events s a)⟩,
    latchFrom_refl _ _ _, latchFrom_refl _ _ _⟩

theorem Access.resetReadWord (s : State) (a : Addr) : Access s (resetReadWord s a).2 :=
  (Access.resetRead s a).trans (.resetRead _ (a + 1))

theorem Access.memWrite (s : State) (a : Addr) (v : Byte) : Access s (memWrite s a v) :=
  ⟨⟨rfl, rfl, busWrite_kept s.devices s.io a v, .busWriteFrom 0 s.devices s.io a v⟩,
    latchFrom_of_requests (.inr ⟨a, v, rfl⟩) _ _ _ (busWriteFrom_requests 0 s.devices s.io a v),
    latchFrom_of_requests (.inr ⟨a, v, rfl⟩) _ _ _ (busWriteFrom_requests 0 s.devices s.io a v)⟩

/-- A device's own accesses are accesses. -/
theorem Access.ownAccesses (n : Nat) (s : State) : Access s (ownAccesses n s) := by
  have drawn : ∀ io, Appends s.io io → Access s { s with io := io } :=
    fun io h => ⟨⟨rfl, rfl, .refl _, h⟩, latchFrom_refl _ _ _, latchFrom_refl _ _ _⟩
  induction n generalizing s with
  | zero => exact .refl s
  | succ n ih =>
    have one : Access s (ownAccess s) := by
      unfold ownAccess
      dsimp only
      split
      · exact (drawn _ (.of_eq (by simp))).trans (.memWrite _ _ _)
      · exact (drawn _ (.of_eq (by simp))).trans (.memRead _ _)
    exact one.trans (ih _ fun io h => ⟨⟨rfl, rfl, .refl _, h⟩, latchFrom_refl _ _ _, latchFrom_refl _ _ _⟩)

theorem Access.clockAccesses (d : Device) (s : State) : Access s (clockAccesses d s) := by
  cases d with
  | other range calls =>
    exact Access.trans (t := { s with io := (draw s.io).2 })
      ⟨⟨rfl, rfl, .refl _, .of_eq (by simp)⟩, latchFrom_refl _ _ _, latchFrom_refl _ _ _⟩ (.ownAccesses _ _)
  | _ => exact .refl s

/-- What a device's own accesses leave: every register and the engine's fields (R51). -/
theorem ownAccesses_cpu (n : Nat) (s : State) :
    Registers (ownAccesses n s) s.a s.x s.y s.sp s.pc s.p ∧ SameEngine s (ownAccesses n s) := by
  induction n generalizing s with
  | zero => exact ⟨⟨rfl, rfl, rfl, rfl, rfl, rfl⟩, rfl, rfl, rfl, rfl, rfl, rfl⟩
  | succ n ih =>
    have one : Registers (ownAccess s) s.a s.x s.y s.sp s.pc s.p ∧ SameEngine s (ownAccess s) := by
      unfold ownAccess
      dsimp only
      split <;> exact ⟨⟨rfl, rfl, rfl, rfl, rfl, rfl⟩, rfl, rfl, rfl, rfl, rfl, rfl⟩
    have tail := ih (ownAccess s)
    simp only [Registers, SameEngine] at one tail ⊢
    simpa only [ownAccesses, one] using tail

theorem clockAccesses_cpu (d : Device) (s : State) :
    Registers (clockAccesses d s) s.a s.x s.y s.sp s.pc s.p ∧ SameEngine s (clockAccesses d s) := by
  cases d with
  | other range calls => exact ownAccesses_cpu (draw s.io).1.toNat { s with io := (draw s.io).2 }
  | _ => exact ⟨⟨rfl, rfl, rfl, rfl, rfl, rfl⟩, rfl, rfl, rfl, rfl, rfl, rfl⟩

/-- A device replaced by one of its kind and range keeps the list. -/
theorem DevicesKept.set {ds : List Device} {k : Nat} {d e : Device} (h : ds[k]? = some d)
    (he : SameDevice d e ∧ (MemoryOk d → MemoryOk e)) : DevicesKept ds (ds.set k e) := by
  refine ⟨by simp, fun j f hf => ?_⟩
  by_cases hj : k = j
  · subst hj
    obtain rfl : d = f := Option.some.inj (h.symm.trans hf)
    exact ⟨e, by simp [(List.getElem?_eq_some_iff.mp h).1], he⟩
  · exact ⟨f, by simp [hj, hf], sameDevice_refl f, id⟩

theorem deviceClock_kept (d : Device) (io : HostIO) :
    SameDevice d (deviceClock d io).device ∧ (MemoryOk d → MemoryOk (deviceClock d io).device) := by
  cases d with
  | other range calls => exact ⟨⟨rfl, [.clock], rfl⟩, id⟩
  | _ => simp [deviceClock, Machine.quiet, SameDevice, MemoryOk]

/-- All that the clock of a device other than the CPU can do: registers and engine stay, and a latch stays or takes the handle of a
registered device. -/
theorem clockOther_spec (k : Nat) (d : Device) (s : State) (h : s.devices[k]? = some d) :
    let t := clockOther k d s
    Effect s t ∧ Registers t s.a s.x s.y s.sp s.pc s.p ∧ SameEngine s t ∧
      (t.nmiPending = s.nmiPending ∨ ∃ j, j < s.devices.length ∧ t.nmiPending = some (.device j)) ∧
      (t.irqPending = s.irqPending ∨ ∃ j, j < s.devices.length ∧ t.irqPending = some (.device j)) := by
  have kept : DevicesKept s.devices (s.devices.set k (deviceClock d s.io).device) := .set h (deviceClock_kept d s.io)
  have asked : ∀ kind l,
      let new := latchAfter s.fault.isSome kind (requestsFrom k (deviceClock d s.io).requests) l
      new = l ∨ ∃ j, j < s.devices.length ∧ new = some (.device j) := by
    intro kind l
    rcases latchAfter_cases s.fault.isSome kind (requestsFrom k (deviceClock d s.io).requests) l with e | ⟨r, hr, e⟩
    · exact .inl e
    · obtain ⟨q, -, rfl⟩ := List.mem_map.mp hr
      exact .inr ⟨k, (List.getElem?_eq_some_iff.mp h).1, e⟩
  have drawn : ∀ {old mid new : Option Handle},
      (mid = old ∨ ∃ j, j < s.devices.length ∧ mid = some (.device j)) →
      (∃ es, LatchFrom (s.devices.set k (deviceClock d s.io).device) es mid new) →
      new = old ∨ ∃ j, j < s.devices.length ∧ new = some (.device j) := by
    rintro old mid new hm ⟨es, rfl | ⟨j, range, calls, more, hj, -, -, e⟩⟩
    · exact hm
    · exact .inr ⟨j, by simpa using (List.getElem?_eq_some_iff.mp hj).1, e⟩
  let u := afterAccess
    { devices := s.devices.set k (deviceClock d s.io).device
      io := (deviceClock d s.io).io
      requests := requestsFrom k (deviceClock d s.io).requests } s
  have clocked : Effect s u := ⟨rfl, rfl, kept, .deviceClock d s.io⟩
  have own := Access.clockAccesses d u
  exact ⟨clocked.trans own.toEffect, (clockAccesses_cpu d u).1, (clockAccesses_cpu d u).2,
    drawn (asked .nmi s.nmiPending) ⟨_, own.nmi⟩, drawn (asked .irq s.irqPending) ⟨_, own.irq⟩⟩

theorem Access.push (v : Byte) (s : State) : Access s (push v s) :=
  (Access.memWrite s (stackAddr s.sp) v).of_eq rfl rfl ⟨rfl, rfl, rfl, rfl⟩

theorem Access.pushWord (w : Addr) (s : State) : Access s (pushWord w s) :=
  (Access.push (hiByte w) s).trans (.push (loByte w) _)

theorem Access.pull (s : State) : Access s (pull s).2 :=
  (Access.memRead s (stackAddr (s.sp + 1))).of_eq rfl rfl ⟨rfl, rfl, rfl, rfl⟩

theorem Access.fetch (s : State) : Access s (fetch s).2 :=
  (Access.memRead s s.pc).of_eq rfl rfl ⟨rfl, rfl, rfl, rfl⟩

theorem Access.pullWord (s : State) : Access s (pullWord s).2 := (Access.pull s).trans (.pull _)

theorem Access.readWord (s : State) (a : Addr) : Access s (readWord s a).2 :=
  (Access.memRead s a).trans (.memRead _ (a + 1))

theorem Access.enterException (b4 : Bool) (vector : Addr) (s : State) : Access s (enterException b4 vector s) :=
  (((Access.pushWord s.pc s).trans (.push (serialize s.p b4) _)).trans (.readWord _ vector)).of_eq (by simp) (by simp)
    ⟨rfl, rfl, rfl, rfl⟩

theorem Access.returnFromException (s : State) : Access s (returnFromException s) :=
  (((Access.pull s).trans (.pull _)).trans (.pull _)).of_eq (by simp) (by simp) ⟨rfl, rfl, rfl, rfl⟩

theorem Access.effectiveAddress (m : Mem) (s : State) : Access s (effectiveAddress m s).2 := by
  cases m with
  | indexedIndirectX z => exact (Access.memRead s _).trans (.memRead _ _)
  | indirectIndexedY z => exact (Access.memRead s _).trans (.memRead _ _)
  | _ => exact .refl s

theorem Access.loadMem (m : Mem) (s : State) : Access s (loadMem m s).2 :=
  (Access.effectiveAddress m s).trans (.memRead _ _)

theorem Access.load (src : Src) (s : State) : Access s (load src s).2 := by
  cases src with
  | immediate v => exact .refl s
  | mem m => exact .loadMem m s

theorem Access.indirectTarget (a : Addr) (s : State) : Access s (indirectTarget a s).2 :=
  (Access.memRead s a).trans (.memRead _ _)

theorem Access.store (m : Mem) (v : Byte) (s : State) : Access s (store m v s) :=
  (Access.effectiveAddress m s).trans (.memWrite _ _ v)

theorem Access.modifyMem (op : Modify) (m : Mem) (s : State) : Access s (modifyMem op m s) := by
  refine ((Access.loadMem m s).trans (.memWrite _ (Machine.effectiveAddress m s).1 (op (Machine.loadMem m s).1 s.p).1)).of_eq ?_ ?_ ?_
  · simp
  · simp
  · exact (modifyMem_storesAt op m s).2.2.2.2

theorem Effect.serviceInterrupt (kind : InterruptKind) (s : State) : Effect s (serviceInterrupt kind s) :=
  (Access.enterException false (vectorOf s.cfg kind) s).toEffect.of_eq (by simp [Machine.serviceInterrupt])
    (by simp [Machine.serviceInterrupt]) (by simp [Machine.serviceInterrupt]) (by simp [Machine.serviceInterrupt])

/-- Every instruction answers a next state and touches the rest of the machine by Bus accesses only. -/
theorem exec_access (i : Instr) (s : State) : ∃ t, exec i s = .next t ∧ Access s t := by
  have keep : ∀ {u t : State}, Access s u → t.cfg = u.cfg → t.clockCalls = u.clockCalls → SameSide u t → Access s t :=
    fun h hc hn hs => h.of_eq hc hn hs
  cases i with
  | pha | php | phx | phy => exact ⟨_, rfl, .push _ _⟩
  | sta m | stx m | sty m | stz m => exact ⟨_, rfl, .store _ _ _⟩
  | inc m | dec m | tsb m | trb m => exact ⟨_, rfl, .modifyMem _ _ _⟩
  | rmb0 z | rmb1 z | rmb2 z | rmb3 z | rmb4 z | rmb5 z | rmb6 z | rmb7 z => exact ⟨_, rfl, .modifyMem _ _ _⟩
  | smb0 z | smb1 z | smb2 z | smb3 z | smb4 z | smb5 z | smb6 z | smb7 z => exact ⟨_, rfl, .modifyMem _ _ _⟩
  | asl d | lsr d | rol d | ror d =>
    refine ⟨_, rfl, ?_⟩
    cases d with
    | accumulator => exact keep (.refl s) rfl rfl ⟨rfl, rfl, rfl, rfl⟩
    | mem m => exact .modifyMem _ _ _
  | lda m | ldx m | ldy m | adc m | sbc m | cmp m | cpx m | cpy m | and m | ora m | eor m =>
    exact ⟨_, rfl, keep (.load m s) rfl rfl ⟨rfl, rfl, rfl, rfl⟩⟩
  | bit m => exact ⟨_, rfl, keep (.loadMem m s) rfl rfl ⟨rfl, rfl, rfl, rfl⟩⟩
  | pla | plp | plx | ply => exact ⟨_, rfl, keep (.pull s) rfl rfl ⟨rfl, rfl, rfl, rfl⟩⟩
  | rts => exact ⟨_, rfl, keep (.pullWord s) rfl rfl ⟨rfl, rfl, rfl, rfl⟩⟩
  | rti => exact ⟨_, rfl, .returnFromException s⟩
  | jsr a =>
    refine ⟨{ pushWord (s.pc - 1) s with pc := a }, rfl, ?_⟩
    exact keep (.pushWord (s.pc - 1) s) (by simp) (by simp) ⟨rfl, rfl, rfl, rfl⟩
  | jmpIndirect a => exact ⟨_, rfl, keep (.indirectTarget a s) rfl rfl ⟨rfl, rfl, rfl, rfl⟩⟩
  | brk =>
    exact ⟨_, rfl, .trans (t := { s with pc := s.pc + 1 }) (keep (.refl s) rfl rfl ⟨rfl, rfl, rfl, rfl⟩)
      (.enterException true s.cfg.irqVec _)⟩
  | bpl d | bmi d | bvc d | bvs d | bcc d | bcs d | bne d | beq d =>
    refine ⟨_, rfl, ?_⟩
    unfold branchIf
    split <;> exact keep (.refl s) rfl rfl ⟨rfl, rfl, rfl, rfl⟩
  | bbr0 z d | bbr1 z d | bbr2 z d | bbr3 z d | bbr4 z d | bbr5 z d | bbr6 z d | bbr7 z d =>
    refine ⟨_, rfl, ?_⟩
    simp only [branchOnBit, branchIf]
    split <;> exact keep (.memRead s (zext16 z)) rfl rfl ⟨rfl, rfl, rfl, rfl⟩
  | bbs0 z d | bbs1 z d | bbs2 z d | bbs3 z d | bbs4 z d | bbs5 z d | bbs6 z d | bbs7 z d =>
    refine ⟨_, rfl, ?_⟩
    simp only [branchOnBit, branchIf]
    split <;> exact keep (.memRead s (zext16 z)) rfl rfl ⟨rfl, rfl, rfl, rfl⟩
  | _ => exact ⟨_, rfl, keep (.refl s) rfl rfl ⟨rfl, rfl, rfl, rfl⟩⟩

end Sys2Proof.Machine
end

