-- ==== Sys2Proof/Laws/PerInstr.lean ====
section
/-!
SUPPORT. Statements made per instruction. EncodeLength: the bytes of a well-formed instruction are its opcode and as many operand bytes as
the descriptor of that opcode has (30_encoding.md R90, R91).
-/

namespace Sys2Proof.Laws.EncodeLength

/-- The encoding is one opcode and its descriptor's number of operand bytes. -/
def Statement (i : Instr) : Prop :=
  ∀ v : Variant, i.wellFormed = true → i.inVariant v = true →
    ∃ op rest, i.encode = op :: rest ∧ rest.length = operandCount v op

/-- A form of the operand that the mnemonic lacks has nothing to show. -/
theorem ofFalse {P : Prop} (h : false = true) : P := Bool.noConfusion h

/-- A JAM slot has no operand bytes. -/
theorem jamSlots_operandCount : ∀ op : Byte, jamSlots.contains op = true → operandCount .nmos op = 0 := by decide

/-- A NotImplemented slot has no operand bytes. -/
theorem notImplementedSlots_operandCount (v : Variant) :
    ∀ op : Byte, (notImplementedSlots v).contains op = true → operandCount v op = 0 := by
  cases v <;> decide

theorem lda (src : Src) : Statement (.lda src) := by
  intro v hw hv
  cases src with
  | mem m => cases m <;> cases v <;> first | exact ofFalse hw | exact ⟨_, _, rfl, rfl⟩
  | _ => cases v <;> exact ⟨_, _, rfl, rfl⟩

theorem ldx (src : Src) : Statement (.ldx src) := by
  intro v hw hv
  cases src with
  | mem m => cases m <;> cases v <;> first | exact ofFalse hw | exact ⟨_, _, rfl, rfl⟩
  | _ => cases v <;> exact ⟨_, _, rfl, rfl⟩

theorem ldy (src : Src) : Statement (.ldy src) := by
  intro v hw hv
  cases src with
  | mem m => cases m <;> cases v <;> first | exact ofFalse hw | exact ⟨_, _, rfl, rfl⟩
  | _ => cases v <;> exact ⟨_, _, rfl, rfl⟩

theorem sta (dst : Mem) : Statement (.sta dst) := by
  intro v hw hv
  cases dst <;> cases v <;> first | exact ofFalse hw | exact ofFalse hv | exact ⟨_, _, rfl, rfl⟩

theorem stx (dst : Mem) : Statement (.stx dst) := by
  intro v hw hv
  cases dst <;> cases v <;> first | exact ofFalse hw | exact ofFalse hv | exact ⟨_, _, rfl, rfl⟩

theorem sty (dst : Mem) : Statement (.sty dst) := by
  intro v hw hv
  cases dst <;> cases v <;> first | exact ofFalse hw | exact ofFalse hv | exact ⟨_, _, rfl, rfl⟩

theorem stz (dst : Mem) : Statement (.stz dst) := by
  intro v hw hv
  cases dst <;> cases v <;> first | exact ofFalse hw | exact ofFalse hv | exact ⟨_, _, rfl, rfl⟩

theorem tax : Statement .tax := by
  intro v hw hv
  cases v <;> first | exact ofFalse hv | exact ⟨_, _, rfl, rfl⟩

theorem tay : Statement .tay := by
  intro v hw hv
  cases v <;> first | exact ofFalse hv | exact ⟨_, _, rfl, rfl⟩

theorem txa : Statement .txa := by
  intro v hw hv
  cases v <;> first | exact ofFalse hv | exact ⟨_, _, rfl, rfl⟩

theorem tya : Statement .tya := by
  intro v hw hv
  cases v <;> first | exact ofFalse hv | exact ⟨_, _, rfl, rfl⟩

theorem tsx : Statement .tsx := by
  intro v hw hv
  cases v <;> first | exact ofFalse hv | exact ⟨_, _, rfl, rfl⟩

theorem txs : Statement .txs := by
  intro v hw hv
  cases v <;> first | exact ofFalse hv | exact ⟨_, _, rfl, rfl⟩

theorem pha : Statement .pha := by
  intro v hw hv
  cases v <;> first | exact ofFalse hv | exact ⟨_, _, rfl, rfl⟩

theorem php : Statement .php := by
  intro v hw hv
  cases v <;> first | exact ofFalse hv | exact ⟨_, _, rfl, rfl⟩

theorem pla : Statement .pla := by
  intro v hw hv
  cases v <;> first | exact ofFalse hv | exact ⟨_, _, rfl, rfl⟩

theorem plp : Statement .plp := by
  intro v hw hv
  cases v <;> first | exact ofFalse hv | exact ⟨_, _, rfl, rfl⟩

theorem phx : Statement .phx := by
  intro v hw hv
  cases v <;> first | exact ofFalse hv | exact ⟨_, _, rfl, rfl⟩

theorem phy : Statement .phy := by
  intro v hw hv
  cases v <;> first | exact ofFalse hv | exact ⟨_, _, rfl, rfl⟩

theorem plx : Statement .plx := by
  intro v hw hv
  cases v <;> first | exact ofFalse hv | exact ⟨_, _, rfl, rfl⟩

theorem ply : Statement .ply := by
  intro v hw hv
  cases v <;> first | exact ofFalse hv | exact ⟨_, _, rfl, rfl⟩

theorem adc (src : Src) : Statement (.adc src) := by
  intro v hw hv
  cases src with
  | mem m => cases m <;> cases v <;> first | exact ofFalse hw | exact ⟨_, _, rfl, rfl⟩
  | _ => cases v <;> exact ⟨_, _, rfl, rfl⟩

theorem sbc (src : Src) : Statement (.sbc src) := by
  intro v hw hv
  cases src with
  | mem m => cases m <;> cases v <;> first | exact ofFalse hw | exact ⟨_, _, rfl, rfl⟩
  | _ => cases v <;> exact ⟨_, _, rfl, rfl⟩

theorem cmp (src : Src) : Statement (.cmp src) := by
  intro v hw hv
  cases src with
  | mem m => cases m <;> cases v <;> first | exact ofFalse hw | exact ⟨_, _, rfl, rfl⟩
  | _ => cases v <;> exact ⟨_, _, rfl, rfl⟩

theorem cpx (src : Src) : Statement (.cpx src) := by
  intro v hw hv
  cases src with
  | mem m => cases m <;> cases v <;> first | exact ofFalse hw | exact ⟨_, _, rfl, rfl⟩
  | _ => cases v <;> exact ⟨_, _, rfl, rfl⟩

theorem cpy (src : Src) : Statement (.cpy src) := by
  intro v hw hv
  cases src with
  | mem m => cases m <;> cases v <;> first | exact ofFalse hw | exact ⟨_, _, rfl, rfl⟩
  | _ => cases v <;> exact ⟨_, _, rfl, rfl⟩

theorem inc (dst : Mem) : Statement (.inc dst) := by
  intro v hw hv
  cases dst <;> cases v <;> first | exact ofFalse hw | exact ofFalse hv | exact ⟨_, _, rfl, rfl⟩

theorem dec (dst : Mem) : Statement (.dec dst) := by
  intro v hw hv
  cases dst <;> cases v <;> first | exact ofFalse hw | exact ofFalse hv | exact ⟨_, _, rfl, rfl⟩

theorem inx : Statement .inx := by
  intro v hw hv
  cases v <;> first | exact ofFalse hv | exact ⟨_, _, rfl, rfl⟩

theorem iny : Statement .iny := by
  intro v hw hv
  cases v <;> first | exact ofFalse hv | exact ⟨_, _, rfl, rfl⟩

theorem dex : Statement .dex := by
  intro v hw hv
  cases v <;> first | exact ofFalse hv | exact ⟨_, _, rfl, rfl⟩

theorem dey : Statement .dey := by
  intro v hw hv
  cases v <;> first | exact ofFalse hv | exact ⟨_, _, rfl, rfl⟩

theorem incA : Statement .incA := by
  intro v hw hv
  cases v <;> first | exact ofFalse hv | exact ⟨_, _, rfl, rfl⟩

theorem decA : Statement .decA := by
  intro v hw hv
  cases v <;> first | exact ofFalse hv | exact ⟨_, _, rfl, rfl⟩

theorem and (src : Src) : Statement (.and src) := by
  intro v hw hv
  cases src with
  | mem m => cases m <;> cases v <;> first | exact ofFalse hw | exact ⟨_, _, rfl, rfl⟩
  | _ => cases v <;> exact ⟨_, _, rfl, rfl⟩

theorem ora (src : Src) : Statement (.ora src) := by
  intro v hw hv
  cases src with
  | mem m => cases m <;> cases v <;> first | exact ofFalse hw | exact ⟨_, _, rfl, rfl⟩
  | _ => cases v <;> exact ⟨_, _, rfl, rfl⟩

theorem eor (src : Src) : Statement (.eor src) := by
  intro v hw hv
  cases src with
  | mem m => cases m <;> cases v <;> first | exact ofFalse hw | exact ⟨_, _, rfl, rfl⟩
  | _ => cases v <;> exact ⟨_, _, rfl, rfl⟩

theorem bit (src : Mem) : Statement (.bit src) := by
  intro v hw hv
  cases src <;> cases v <;> first | exact ofFalse hw | exact ofFalse hv | exact ⟨_, _, rfl, rfl⟩

theorem bitImmediate (v : Byte) : Statement (.bitImmediate v) := by
  intro v hw hv
  cases v <;> first | exact ofFalse hv | exact ⟨_, _, rfl, rfl⟩

theorem asl (dst : Rmw) : Statement (.asl dst) := by
  intro v hw hv
  cases dst with
  | mem m => cases m <;> cases v <;> first | exact ofFalse hw | exact ⟨_, _, rfl, rfl⟩
  | _ => cases v <;> exact ⟨_, _, rfl, rfl⟩

theorem lsr (dst : Rmw) : Statement (.lsr dst) := by
  intro v hw hv
  cases dst with
  | mem m => cases m <;> cases v <;> first | exact ofFalse hw | exact ⟨_, _, rfl, rfl⟩
  | _ => cases v <;> exact ⟨_, _, rfl, rfl⟩

theorem rol (dst : Rmw) : Statement (.rol dst) := by
  intro v hw hv
  cases dst with
  | mem m => cases m <;> cases v <;> first | exact ofFalse hw | exact ⟨_, _, rfl, rfl⟩
  | _ => cases v <;> exact ⟨_, _, rfl, rfl⟩

theorem ror (dst : Rmw) : Statement (.ror dst) := by
  intro v hw hv
  cases dst with
  | mem m => cases m <;> cases v <;> first | exact ofFalse hw | exact ⟨_, _, rfl, rfl⟩
  | _ => cases v <;> exact ⟨_, _, rfl, rfl⟩

theorem tsb (dst : Mem) : Statement (.tsb dst) := by
  intro v hw hv
  cases dst <;> cases v <;> first | exact ofFalse hw | exact ofFalse hv | exact ⟨_, _, rfl, rfl⟩

theorem trb (dst : Mem) : Statement (.trb dst) := by
  intro v hw hv
  cases dst <;> cases v <;> first | exact ofFalse hw | exact ofFalse hv | exact ⟨_, _, rfl, rfl⟩

theorem rmb0 (z : Byte) : Statement (.rmb0 z) := by
  intro v hw hv
  cases v <;> first | exact ofFalse hv | exact ⟨_, _, rfl, rfl⟩

theorem rmb1 (z : Byte) : Statement (.rmb1 z) := by
  intro v hw hv
  cases v <;> first | exact ofFalse hv | exact ⟨_, _, rfl, rfl⟩

theorem rmb2 (z : Byte) : Statement (.rmb2 z) := by
  intro v hw hv
  cases v <;> first | exact ofFalse hv | exact ⟨_, _, rfl, rfl⟩

theorem rmb3 (z : Byte) : Statement (.rmb3 z) := by
  intro v hw hv
  cases v <;> first | exact ofFalse hv | exact ⟨_, _, rfl, rfl⟩

theorem rmb4 (z : Byte) : Statement (.rmb4 z) := by
  intro v hw hv
  cases v <;> first | exact ofFalse hv | exact ⟨_, _, rfl, rfl⟩

theorem rmb5 (z : Byte) : Statement (.rmb5 z) := by
  intro v hw hv
  cases v <;> first | exact ofFalse hv | exact ⟨_, _, rfl, rfl⟩

theorem rmb6 (z : Byte) : Statement (.rmb6 z) := by
  intro v hw hv
  cases v <;> first | exact ofFalse hv | exact ⟨_, _, rfl, rfl⟩

theorem rmb7 (z : Byte) : Statement (.rmb7 z) := by
  intro v hw hv
  cases v <;> first | exact ofFalse hv | exact ⟨_, _, rfl, rfl⟩

theorem smb0 (z : Byte) : Statement (.smb0 z) := by
  intro v hw hv
  cases v <;> first | exact ofFalse hv | exact ⟨_, _, rfl, rfl⟩

theorem smb1 (z : Byte) : Statement (.smb1 z) := by
  intro v hw hv
  cases v <;> first | exact ofFalse hv | exact ⟨_, _, rfl, rfl⟩

theorem smb2 (z : Byte) : Statement (.smb2 z) := by
  intro v hw hv
  cases v <;> first | exact ofFalse hv | exact ⟨_, _, rfl, rfl⟩

theorem smb3 (z : Byte) : Statement (.smb3 z) := by
  intro v hw hv
  cases v <;> first | exact ofFalse hv | exact ⟨_, _, rfl, rfl⟩

theorem smb4 (z : Byte) : Statement (.smb4 z) := by
  intro v hw hv
  cases v <;> first | exact ofFalse hv | exact ⟨_, _, rfl, rfl⟩

theorem smb5 (z : Byte) : Statement (.smb5 z) := by
  intro v hw hv
  cases v <;> first | exact ofFalse hv | exact ⟨_, _, rfl, rfl⟩

theorem smb6 (z : Byte) : Statement (.smb6 z) := by
  intro v hw hv
  cases v <;> first | exact ofFalse hv | exact ⟨_, _, rfl, rfl⟩

theorem smb7 (z : Byte) : Statement (.smb7 z) := by
  intro v hw hv
  cases v <;> first | exact ofFalse hv | exact ⟨_, _, rfl, rfl⟩

theorem bpl (d : Byte) : Statement (.bpl d) := by
  intro v hw hv
  cases v <;> first | exact ofFalse hv | exact ⟨_, _, rfl, rfl⟩

theorem bmi (d : Byte) : Statement (.bmi d) := by
  intro v hw hv
  cases v <;> first | exact ofFalse hv | exact ⟨_, _, rfl, rfl⟩

theorem bvc (d : Byte) : Statement (.bvc d) := by
  intro v hw hv
  cases v <;> first | exact ofFalse hv | exact ⟨_, _, rfl, rfl⟩

theorem bvs (d : Byte) : Statement (.bvs d) := by
  intro v hw hv
  cases v <;> first | exact ofFalse hv | exact ⟨_, _, rfl, rfl⟩

theorem bcc (d : Byte) : Statement (.bcc d) := by
  intro v hw hv
  cases v <;> first | exact ofFalse hv | exact ⟨_, _, rfl, rfl⟩

theorem bcs (d : Byte) : Statement (.bcs d) := by
  intro v hw hv
  cases v <;> first | exact ofFalse hv | exact ⟨_, _, rfl, rfl⟩

theorem bne (d : Byte) : Statement (.bne d) := by
  intro v hw hv
  cases v <;> first | exact ofFalse hv | exact ⟨_, _, rfl, rfl⟩

theorem beq (d : Byte) : Statement (.beq d) := by
  intro v hw hv
  cases v <;> first | exact ofFalse hv | exact ⟨_, _, rfl, rfl⟩

theorem bra (d : Byte) : Statement (.bra d) := by
  intro v hw hv
  cases v <;> first | exact ofFalse hv | exact ⟨_, _, rfl, rfl⟩

theorem bbr0 (z d : Byte) : Statement (.bbr0 z d) := by
  intro v hw hv
  cases v <;> first | exact ofFalse hv | exact ⟨_, _, rfl, rfl⟩

theorem bbr1 (z d : Byte) : Statement (.bbr1 z d) := by
  intro v hw hv
  cases v <;> first | exact ofFalse hv | exact ⟨_, _, rfl, rfl⟩

theorem bbr2 (z d : Byte) : Statement (.bbr2 z d) := by
  intro v hw hv
  cases v <;> first | exact ofFalse hv | exact ⟨_, _, rfl, rfl⟩

theorem bbr3 (z d : Byte) : Statement (.bbr3 z d) := by
  intro v hw hv
  cases v <;> first | exact ofFalse hv | exact ⟨_, _, rfl, rfl⟩

theorem bbr4 (z d : Byte) : Statement (.bbr4 z d) := by
  intro v hw hv
  cases v <;> first | exact ofFalse hv | exact ⟨_, _, rfl, rfl⟩

theorem bbr5 (z d : Byte) : Statement (.bbr5 z d) := by
  intro v hw hv
  cases v <;> first | exact ofFalse hv | exact ⟨_, _, rfl, rfl⟩

theorem bbr6 (z d : Byte) : Statement (.bbr6 z d) := by
  intro v hw hv
  cases v <;> first | exact ofFalse hv | exact ⟨_, _, rfl, rfl⟩

theorem bbr7 (z d : Byte) : Statement (.bbr7 z d) := by
  intro v hw hv
  cases v <;> first | exact ofFalse hv | exact ⟨_, _, rfl, rfl⟩

theorem bbs0 (z d : Byte) : Statement (.bbs0 z d) := by
  intro v hw hv
  cases v <;> first | exact ofFalse hv | exact ⟨_, _, rfl, rfl⟩

theorem bbs1 (z d : Byte) : Statement (.bbs1 z d) := by
  intro v hw hv
  cases v <;> first | exact ofFalse hv | exact ⟨_, _, rfl, rfl⟩

theorem bbs2 (z d : Byte) : Statement (.bbs2 z d) := by
  intro v hw hv
  cases v <;> first | exact ofFalse hv | exact ⟨_, _, rfl, rfl⟩

theorem bbs3 (z d : Byte) : Statement (.bbs3 z d) := by
  intro v hw hv
  cases v <;> first | exact ofFalse hv | exact ⟨_, _, rfl, rfl⟩

theorem bbs4 (z d : Byte) : Statement (.bbs4 z d) := by
  intro v hw hv
  cases v <;> first | exact ofFalse hv | exact ⟨_, _, rfl, rfl⟩

theorem bbs5 (z d : Byte) : Statement (.bbs5 z d) := by
  intro v hw hv
  cases v <;> first | exact ofFalse hv | exact ⟨_, _, rfl, rfl⟩

theorem bbs6 (z d : Byte) : Statement (.bbs6 z d) := by
  intro v hw hv
  cases v <;> first | exact ofFalse hv | exact ⟨_, _, rfl, rfl⟩

theorem bbs7 (z d : Byte) : Statement (.bbs7 z d) := by
  intro v hw hv
  cases v <;> first | exact ofFalse hv | exact ⟨_, _, rfl, rfl⟩

theorem jmp (target : Addr) : Statement (.jmp target) := by
  intro v hw hv
  cases v <;> first | exact ofFalse hv | exact ⟨_, _, rfl, rfl⟩

theorem jmpIndirect (pointer : Addr) : Statement (.jmpIndirect pointer) := by
  intro v hw hv
  cases v <;> first | exact ofFalse hv | exact ⟨_, _, rfl, rfl⟩

theorem jsr (target : Addr) : Statement (.jsr target) := by
  intro v hw hv
  cases v <;> first | exact ofFalse hv | exact ⟨_, _, rfl, rfl⟩

theorem rts : Statement .rts := by
  intro v hw hv
  cases v <;> first | exact ofFalse hv | exact ⟨_, _, rfl, rfl⟩

theorem brk : Statement .brk := by
  intro v hw hv
  cases v <;> first | exact ofFalse hv | exact ⟨_, _, rfl, rfl⟩

theorem rti : Statement .rti := by
  intro v hw hv
  cases v <;> first | exact ofFalse hv | exact ⟨_, _, rfl, rfl⟩

theorem clc : Statement .clc := by
  intro v hw hv
  cases v <;> first | exact ofFalse hv | exact ⟨_, _, rfl, rfl⟩

theorem sec : Statement .sec := by
  intro v hw hv
  cases v <;> first | exact ofFalse hv | exact ⟨_, _, rfl, rfl⟩

theorem cli : Statement .cli := by
  intro v hw hv
  cases v <;> first | exact ofFalse hv | exact ⟨_, _, rfl, rfl⟩

theorem sei : Statement .sei := by
  intro v hw hv
  cases v <;> first | exact ofFalse hv | exact ⟨_, _, rfl, rfl⟩

theorem cld : Statement .cld := by
  intro v hw hv
  cases v <;> first | exact ofFalse hv | exact ⟨_, _, rfl, rfl⟩

theorem sed : Statement .sed := by
  intro v hw hv
  cases v <;> first | exact ofFalse hv | exact ⟨_, _, rfl, rfl⟩

theorem clv : Statement .clv := by
  intro v hw hv
  cases v <;> first | exact ofFalse hv | exact ⟨_, _, rfl, rfl⟩

theorem nop : Statement .nop := by
  intro v hw hv
  cases v <;> first | exact ofFalse hv | exact ⟨_, _, rfl, rfl⟩

theorem wai : Statement .wai := by
  intro v hw hv
  cases v <;> first | exact ofFalse hv | exact ⟨_, _, rfl, rfl⟩

theorem stp : Statement .stp := by
  intro v hw hv
  cases v <;> first | exact ofFalse hv | exact ⟨_, _, rfl, rfl⟩

theorem jam (opcode : Byte) : Statement (.jam opcode) := by
  intro v hw hv
  obtain rfl : v = .nmos := by
    cases v
    · rfl
    · exact ofFalse hv
  exact ⟨_, _, rfl, (jamSlots_operandCount opcode hw).symm⟩

theorem notImplemented (opcode : Byte) : Statement (.notImplemented opcode) := by
  intro v _ hv
  exact ⟨_, _, rfl, (notImplementedSlots_operandCount v opcode hv).symm⟩

end Sys2Proof.Laws.EncodeLength
end

