-- ==== Sys2Proof/Machine/Assembly.lean ====
section
/-!
DEFINITION. The assembler syntax (30_encoding.md R110, R91): the text of an instruction that lies at a given address. Of the disassembler
this is all the spec keeps (00_scope.md R5); it changes no state and no step uses it.
-/

namespace Sys2Proof

open Machine (sext8)

/-- One upper-case hexadecimal digit. -/
def hexDigit (n : Nat) : Char := "0123456789ABCDEF".toList.getD n '?'

/-- `$nn` -/
def hex2 (b : Byte) : String := String.ofList ['$', hexDigit (b.toNat / 16), hexDigit (b.toNat % 16)]

/-- `$nnnn` -/
def hex4 (a : Addr) : String :=
  String.ofList
    ['$', hexDigit (a.toNat / 4096), hexDigit (a.toNat / 256 % 16), hexDigit (a.toNat / 16 % 16), hexDigit (a.toNat % 16)]

/-- The operand form of a memory mode, R91. -/
def Mem.text : Mem → String
  | .zeroPage z => hex2 z
  | .zeroPageX z => hex2 z ++ ",X"
  | .zeroPageY z => hex2 z ++ ",Y"
  | .absolute a => hex4 a
  | .absoluteX a => hex4 a ++ ",X"
  | .absoluteY a => hex4 a ++ ",Y"
  | .indexedIndirectX z => "(" ++ hex2 z ++ ",X)"
  | .indirectIndexedY z => "(" ++ hex2 z ++ "),Y"

/-- The operand form of a read instruction, R91. -/
def Src.text : Src → String
  | .immediate v => "#" ++ hex2 v
  | .mem m => m.text

/-- The operand form of a shift or rotate, R91. -/
def Rmw.text : Rmw → String
  | .accumulator => "A"
  | .mem m => m.text

/-- The absolute target of a Relative operand of the instruction at `a`, two bytes long (R95, R110). -/
def relativeText (a : Addr) (d : Byte) : String := hex4 (a + 2 + sext8 d)

/-- The operand form of ZeroPageRelative, of an instruction at `a`, three bytes long (R97, R110). -/
def bitBranchText (a : Addr) (z d : Byte) : String := hex2 z ++ "," ++ hex4 (a + 3 + sext8 d)

/-- Mnemonic and operand text of the instruction at address `a`, R110; none for a fault slot, which has neither. -/
def Instr.text (a : Addr) : Instr → Option String
  | .lda o => some ("LDA " ++ o.text)
  | .ldx o => some ("LDX " ++ o.text)
  | .ldy o => some ("LDY " ++ o.text)
  | .sta o => some ("STA " ++ o.text)
  | .stx o => some ("STX " ++ o.text)
  | .sty o => some ("STY " ++ o.text)
  | .stz o => some ("STZ " ++ o.text)
  | .tax => some "TAX"
  | .tay => some "TAY"
  | .txa => some "TXA"
  | .tya => some "TYA"
  | .tsx => some "TSX"
  | .txs => some "TXS"
  | .pha => some "PHA"
  | .php => some "PHP"
  | .pla => some "PLA"
  | .plp => some "PLP"
  | .phx => some "PHX"
  | .phy => some "PHY"
  | .plx => some "PLX"
  | .ply => some "PLY"
  | .adc o => some ("ADC " ++ o.text)
  | .sbc o => some ("SBC " ++ o.text)
  | .cmp o => some ("CMP " ++ o.text)
  | .cpx o => some ("CPX " ++ o.text)
  | .cpy o => some ("CPY " ++ o.text)
  | .inc o => some ("INC " ++ o.text)
  | .dec o => some ("DEC " ++ o.text)
  | .inx => some "INX"
  | .iny => some "INY"
  | .dex => some "DEX"
  | .dey => some "DEY"
  | .incA => some "INC A"
  | .decA => some "DEC A"
  | .and o => some ("AND " ++ o.text)
  | .ora o => some ("ORA " ++ o.text)
  | .eor o => some ("EOR " ++ o.text)
  | .bit o => some ("BIT " ++ o.text)
  | .bitImmediate v => some ("BIT #" ++ hex2 v)
  | .asl o => some ("ASL " ++ o.text)
  | .lsr o => some ("LSR " ++ o.text)
  | .rol o => some ("ROL " ++ o.text)
  | .ror o => some ("ROR " ++ o.text)
  | .tsb o => some ("TSB " ++ o.text)
  | .trb o => some ("TRB " ++ o.text)
  | .rmb0 z => some ("RMB0 " ++ hex2 z)
  | .rmb1 z => some ("RMB1 " ++ hex2 z)
  | .rmb2 z => some ("RMB2 " ++ hex2 z)
  | .rmb3 z => some ("RMB3 " ++ hex2 z)
  | .rmb4 z => some ("RMB4 " ++ hex2 z)
  | .rmb5 z => some ("RMB5 " ++ hex2 z)
  | .rmb6 z => some ("RMB6 " ++ hex2 z)
  | .rmb7 z => some ("RMB7 " ++ hex2 z)
  | .smb0 z => some ("SMB0 " ++ hex2 z)
  | .smb1 z => some ("SMB1 " ++ hex2 z)
  | .smb2 z => some ("SMB2 " ++ hex2 z)
  | .smb3 z => some ("SMB3 " ++ hex2 z)
  | .smb4 z => some ("SMB4 " ++ hex2 z)
  | .smb5 z => some ("SMB5 " ++ hex2 z)
  | .smb6 z => some ("SMB6 " ++ hex2 z)
  | .smb7 z => some ("SMB7 " ++ hex2 z)
  | .bpl d => some ("BPL " ++ relativeText a d)
  | .bmi d => some ("BMI " ++ relativeText a d)
  | .bvc d => some ("BVC " ++ relativeText a d)
  | .bvs d => some ("BVS " ++ relativeText a d)
  | .bcc d => some ("BCC " ++ relativeText a d)
  | .bcs d => some ("BCS " ++ relativeText a d)
  | .bne d => some ("BNE " ++ relativeText a d)
  | .beq d => some ("BEQ " ++ relativeText a d)
  | .bra d => some ("BRA " ++ relativeText a d)
  | .bbr0 z d => some ("BBR0 " ++ bitBranchText a z d)
  | .bbr1 z d => some ("BBR1 " ++ bitBranchText a z d)
  | .bbr2 z d => some ("BBR2 " ++ bitBranchText a z d)
  | .bbr3 z d => some ("BBR3 " ++ bitBranchText a z d)
  | .bbr4 z d => some ("BBR4 " ++ bitBranchText a z d)
  | .bbr5 z d => some ("BBR5 " ++ bitBranchText a z d)
  | .bbr6 z d => some ("BBR6 " ++ bitBranchText a z d)
  | .bbr7 z d => some ("BBR7 " ++ bitBranchText a z d)
  | .bbs0 z d => some ("BBS0 " ++ bitBranchText a z d)
  | .bbs1 z d => some ("BBS1 " ++ bitBranchText a z d)
  | .bbs2 z d => some ("BBS2 " ++ bitBranchText a z d)
  | .bbs3 z d => some ("BBS3 " ++ bitBranchText a z d)
  | .bbs4 z d => some ("BBS4 " ++ bitBranchText a z d)
  | .bbs5 z d => some ("BBS5 " ++ bitBranchText a z d)
  | .bbs6 z d => some ("BBS6 " ++ bitBranchText a z d)
  | .bbs7 z d => some ("BBS7 " ++ bitBranchText a z d)
  | .jmp t => some ("JMP " ++ hex4 t)
  | .jmpIndirect p => some ("JMP (" ++ hex4 p ++ ")")
  | .jsr t => some ("JSR " ++ hex4 t)
  | .rts => some "RTS"
  | .brk => some "BRK"
  | .rti => some "RTI"
  | .clc => some "CLC"
  | .sec => some "SEC"
  | .cli => some "CLI"
  | .sei => some "SEI"
  | .cld => some "CLD"
  | .sed => some "SED"
  | .clv => some "CLV"
  | .nop => some "NOP"
  | .wai => some "WAI"
  | .stp => some "STP"
  | .jam _ => none
  | .notImplemented _ => none

end Sys2Proof
end

