-- ==== Sys2Proof/Tests/Slice0.lean ====
section
/-!
SUPPORT. Tests: ill-formed terms, one word per constructor written out from its rule's encoding, vectors of 95_test_vectors.md (named by
their ids there), and for every statement with hypotheses a witness that meets them.
-/

set_option maxRecDepth 4000

namespace Sys2Proof.Tests

open Sys2Proof.Machine Sys2Proof.Claims

/-! ## Ill-formed terms, one or more per check of WellFormed -/

theorem test_groupOne_refuses_zeroPageY : (Instr.sta (.zeroPageY 0x10)).wellFormed = false := by decide

theorem test_src_groupOne_refuses_zeroPageY : (Instr.lda (.mem (.zeroPageY 0x10))).wellFormed = false := by decide

theorem test_yIndexed_refuses_x : (Instr.ldx (.mem (.zeroPageX 0x10))).wellFormed = false := by decide

theorem test_yIndexed_refuses_indirect : (Instr.ldx (.mem (.indirectIndexedY 0x10))).wellFormed = false := by decide

theorem test_xIndexed_refuses_y : (Instr.inc (.absoluteY 0x1234)).wellFormed = false := by decide

theorem test_rmw_xIndexed_refuses_y : (Instr.asl (.mem (.absoluteY 0x1234))).wellFormed = false := by decide

theorem test_storeX_refuses_absoluteY : (Instr.stx (.absoluteY 0x1234)).wellFormed = false := by decide

theorem test_storeY_refuses_absoluteX : (Instr.sty (.absoluteX 0x1234)).wellFormed = false := by decide

theorem test_direct_refuses_indexed : (Instr.cpx (.mem (.zeroPageX 0x10))).wellFormed = false := by decide

theorem test_direct_refuses_indexed_rmw : (Instr.tsb (.absoluteX 0x1234)).wellFormed = false := by decide

theorem test_jam_refuses_an_instruction : (Instr.jam 0xEA).wellFormed = false := by decide

theorem test_notImplemented_refuses_an_instruction : (Instr.notImplemented 0xEA).wellFormed = false := by decide

theorem test_nmos_has_no_stz : (Instr.stz (.zeroPage 0x10)).inVariant .nmos = false := by decide

theorem test_cmos_has_no_jam : (Instr.jam 0x02).inVariant .cmos = false := by decide

theorem test_cmos_slot_of_nmos_is_implemented : (Instr.notImplemented 0x1A).inVariant .cmos = false := by decide

/-! ## Decoding: each constructor's word, written out bit by bit from the "Encoding" line of its rule -/

theorem test_decode_loadStore_0 :
    decode .nmos [0b10110001, 0x10] = .ok (.lda (.mem (.indirectIndexedY 0x10)), []) ∧
    decode .nmos [0b10111110, 0x34, 0x12] = .ok (.ldx (.mem (.absoluteY 0x1234)), []) ∧
    decode .nmos [0b10111100, 0x34, 0x12] = .ok (.ldy (.mem (.absoluteX 0x1234)), []) ∧
    decode .nmos [0b10010001, 0x10] = .ok (.sta (.indirectIndexedY 0x10), []) ∧
    decode .nmos [0b10001110, 0x34, 0x12] = .ok (.stx (.absolute 0x1234), []) ∧
    decode .nmos [0b10001100, 0x34, 0x12] = .ok (.sty (.absolute 0x1234), []) ∧
    decode .cmos [0b10011110, 0x34, 0x12] = .ok (.stz (.absoluteX 0x1234), []) ∧
    decode .cmos [0b00001111, 0x10, 0xFB] = .ok (.bbr0 0x10 0xFB, []) ∧
    decode .cmos [0b00011111, 0x10, 0xFB] = .ok (.bbr1 0x10 0xFB, []) ∧
    decode .cmos [0b00101111, 0x10, 0xFB] = .ok (.bbr2 0x10 0xFB, []) ∧
    decode .cmos [0b00111111, 0x10, 0xFB] = .ok (.bbr3 0x10 0xFB, []) ∧
    decode .cmos [0b01001111, 0x10, 0xFB] = .ok (.bbr4 0x10 0xFB, []) := by and_intros <;> rfl

theorem test_decode_loadStore_1 :
    decode .cmos [0b01011111, 0x10, 0xFB] = .ok (.bbr5 0x10 0xFB, []) ∧
    decode .cmos [0b01101111, 0x10, 0xFB] = .ok (.bbr6 0x10 0xFB, []) ∧
    decode .cmos [0b01111111, 0x10, 0xFB] = .ok (.bbr7 0x10 0xFB, []) := by and_intros <;> rfl

theorem test_decode_transferStack_0 :
    decode .nmos [0b10101010] = .ok (.tax, []) ∧
    decode .nmos [0b10101000] = .ok (.tay, []) ∧
    decode .nmos [0b10001010] = .ok (.txa, []) ∧
    decode .nmos [0b10011000] = .ok (.tya, []) ∧
    decode .nmos [0b10111010] = .ok (.tsx, []) ∧
    decode .nmos [0b10011010] = .ok (.txs, []) ∧
    decode .nmos [0b01001000] = .ok (.pha, []) ∧
    decode .nmos [0b00001000] = .ok (.php, []) ∧
    decode .nmos [0b01101000] = .ok (.pla, []) ∧
    decode .nmos [0b00101000] = .ok (.plp, []) ∧
    decode .cmos [0b11011010] = .ok (.phx, []) ∧
    decode .cmos [0b01011010] = .ok (.phy, []) := by and_intros <;> rfl

theorem test_decode_transferStack_1 :
    decode .cmos [0b11111010] = .ok (.plx, []) ∧
    decode .cmos [0b01111010] = .ok (.ply, []) := by and_intros <;> rfl

theorem test_decode_arithmetic_0 :
    decode .nmos [0b01110001, 0x10] = .ok (.adc (.mem (.indirectIndexedY 0x10)), []) ∧
    decode .nmos [0b11110001, 0x10] = .ok (.sbc (.mem (.indirectIndexedY 0x10)), []) ∧
    decode .nmos [0b11010001, 0x10] = .ok (.cmp (.mem (.indirectIndexedY 0x10)), []) ∧
    decode .nmos [0b11101100, 0x34, 0x12] = .ok (.cpx (.mem (.absolute 0x1234)), []) ∧
    decode .nmos [0b11001100, 0x34, 0x12] = .ok (.cpy (.mem (.absolute 0x1234)), []) ∧
    decode .nmos [0b11111110, 0x34, 0x12] = .ok (.inc (.absoluteX 0x1234), []) ∧
    decode .nmos [0b11011110, 0x34, 0x12] = .ok (.dec (.absoluteX 0x1234), []) ∧
    decode .nmos [0b11101000] = .ok (.inx, []) ∧
    decode .nmos [0b11001000] = .ok (.iny, []) ∧
    decode .nmos [0b11001010] = .ok (.dex, []) ∧
    decode .nmos [0b10001000] = .ok (.dey, []) ∧
    decode .cmos [0b00011010] = .ok (.incA, []) := by and_intros <;> rfl

theorem test_decode_arithmetic_1 :
    decode .cmos [0b00111010] = .ok (.decA, []) := rfl

theorem test_decode_logic_0 :
    decode .nmos [0b00110001, 0x10] = .ok (.and (.mem (.indirectIndexedY 0x10)), []) ∧
    decode .nmos [0b00010001, 0x10] = .ok (.ora (.mem (.indirectIndexedY 0x10)), []) ∧
    decode .nmos [0b01010001, 0x10] = .ok (.eor (.mem (.indirectIndexedY 0x10)), []) ∧
    decode .nmos [0b00101100, 0x34, 0x12] = .ok (.bit (.absolute 0x1234), []) ∧
    decode .cmos [0b10001001, 0x42] = .ok (.bitImmediate 0x42, []) ∧
    decode .nmos [0b00011110, 0x34, 0x12] = .ok (.asl (.mem (.absoluteX 0x1234)), []) ∧
    decode .nmos [0b01011110, 0x34, 0x12] = .ok (.lsr (.mem (.absoluteX 0x1234)), []) ∧
    decode .nmos [0b00111110, 0x34, 0x12] = .ok (.rol (.mem (.absoluteX 0x1234)), []) ∧
    decode .nmos [0b01111110, 0x34, 0x12] = .ok (.ror (.mem (.absoluteX 0x1234)), []) ∧
    decode .cmos [0b00001100, 0x34, 0x12] = .ok (.tsb (.absolute 0x1234), []) ∧
    decode .cmos [0b00011100, 0x34, 0x12] = .ok (.trb (.absolute 0x1234), []) ∧
    decode .cmos [0b00000111, 0x10] = .ok (.rmb0 0x10, []) := by and_intros <;> rfl

theorem test_decode_logic_1 :
    decode .cmos [0b00010111, 0x10] = .ok (.rmb1 0x10, []) ∧
    decode .cmos [0b00100111, 0x10] = .ok (.rmb2 0x10, []) ∧
    decode .cmos [0b00110111, 0x10] = .ok (.rmb3 0x10, []) ∧
    decode .cmos [0b01000111, 0x10] = .ok (.rmb4 0x10, []) ∧
    decode .cmos [0b01010111, 0x10] = .ok (.rmb5 0x10, []) ∧
    decode .cmos [0b01100111, 0x10] = .ok (.rmb6 0x10, []) ∧
    decode .cmos [0b01110111, 0x10] = .ok (.rmb7 0x10, []) ∧
    decode .cmos [0b10000111, 0x10] = .ok (.smb0 0x10, []) ∧
    decode .cmos [0b10010111, 0x10] = .ok (.smb1 0x10, []) ∧
    decode .cmos [0b10100111, 0x10] = .ok (.smb2 0x10, []) ∧
    decode .cmos [0b10110111, 0x10] = .ok (.smb3 0x10, []) ∧
    decode .cmos [0b11000111, 0x10] = .ok (.smb4 0x10, []) := by and_intros <;> rfl

theorem test_decode_logic_2 :
    decode .cmos [0b11010111, 0x10] = .ok (.smb5 0x10, []) ∧
    decode .cmos [0b11100111, 0x10] = .ok (.smb6 0x10, []) ∧
    decode .cmos [0b11110111, 0x10] = .ok (.smb7 0x10, []) := by and_intros <;> rfl

theorem test_decode_control_0 :
    decode .nmos [0b00010000, 0xFB] = .ok (.bpl 0xFB, []) ∧
    decode .nmos [0b00110000, 0xFB] = .ok (.bmi 0xFB, []) ∧
    decode .nmos [0b01010000, 0xFB] = .ok (.bvc 0xFB, []) ∧
    decode .nmos [0b01110000, 0xFB] = .ok (.bvs 0xFB, []) ∧
    decode .nmos [0b10010000, 0xFB] = .ok (.bcc 0xFB, []) ∧
    decode .nmos [0b10110000, 0xFB] = .ok (.bcs 0xFB, []) ∧
    decode .nmos [0b11010000, 0xFB] = .ok (.bne 0xFB, []) ∧
    decode .nmos [0b11110000, 0xFB] = .ok (.beq 0xFB, []) ∧
    decode .cmos [0b10000000, 0xFB] = .ok (.bra 0xFB, []) ∧
    decode .cmos [0b10001111, 0x10, 0xFB] = .ok (.bbs0 0x10 0xFB, []) ∧
    decode .cmos [0b10011111, 0x10, 0xFB] = .ok (.bbs1 0x10 0xFB, []) ∧
    decode .cmos [0b10101111, 0x10, 0xFB] = .ok (.bbs2 0x10 0xFB, []) := by and_intros <;> rfl

theorem test_decode_control_1 :
    decode .cmos [0b10111111, 0x10, 0xFB] = .ok (.bbs3 0x10 0xFB, []) ∧
    decode .cmos [0b11001111, 0x10, 0xFB] = .ok (.bbs4 0x10 0xFB, []) ∧
    decode .cmos [0b11011111, 0x10, 0xFB] = .ok (.bbs5 0x10 0xFB, []) ∧
    decode .cmos [0b11101111, 0x10, 0xFB] = .ok (.bbs6 0x10 0xFB, []) ∧
    decode .cmos [0b11111111, 0x10, 0xFB] = .ok (.bbs7 0x10 0xFB, []) ∧
    decode .nmos [0b01001100, 0x34, 0x12] = .ok (.jmp 0x1234, []) ∧
    decode .nmos [0b01101100, 0x34, 0x12] = .ok (.jmpIndirect 0x1234, []) ∧
    decode .nmos [0b00100000, 0x34, 0x12] = .ok (.jsr 0x1234, []) ∧
    decode .nmos [0b01100000] = .ok (.rts, []) := by and_intros <;> rfl

theorem test_decode_system_0 :
    decode .nmos [0b00000000] = .ok (.brk, []) ∧
    decode .nmos [0b01000000] = .ok (.rti, []) ∧
    decode .nmos [0b00011000] = .ok (.clc, []) ∧
    decode .nmos [0b00111000] = .ok (.sec, []) ∧
    decode .nmos [0b01011000] = .ok (.cli, []) ∧
    decode .nmos [0b01111000] = .ok (.sei, []) ∧
    decode .nmos [0b11011000] = .ok (.cld, []) ∧
    decode .nmos [0b11111000] = .ok (.sed, []) ∧
    decode .nmos [0b10111000] = .ok (.clv, []) ∧
    decode .nmos [0b11101010] = .ok (.nop, []) ∧
    decode .cmos [0b11001011] = .ok (.wai, []) ∧
    decode .cmos [0b11011011] = .ok (.stp, []) := by and_intros <;> rfl

theorem test_decode_system_1 :
    decode .nmos [0b00000010] = .ok (.jam 0x02, []) ∧
    decode .nmos [0b00000011] = .ok (.notImplemented 0x03, []) := by and_intros <;> rfl

theorem test_decode_other_slots :
    decode .cmos [0b00000010] = .ok (.notImplemented 0x02, []) ∧ decode .nmos [0b00011010] = .ok (.notImplemented 0x1A, []) ∧
    decode .cmos [0b00011010] = .ok (.incA, []) ∧ decode .nmos [0b10101001] = .error (.missingOperand 0xA9) ∧
    decode .nmos [] = .error .noOpcode := by and_intros <;> rfl

theorem test_decode_immediate_and_accumulator :
    decode .nmos [0b10101001, 0x42] = .ok (.lda (.immediate 0x42), []) ∧ decode .nmos [0b00001010] = .ok (.asl .accumulator, []) := by and_intros <;> rfl

/-- 30_encoding.md R110. -/
theorem test_text :
    (Instr.lda (.mem (.indirectIndexedY 0x1F))).text 0x0600 = some "LDA ($1F),Y" ∧
    (Instr.bne 0xFB).text 0x0608 = some "BNE $0605" ∧ (Instr.bbr2 0x10 0x05).text 0x0600 = some "BBR2 $10,$0608" ∧
    (Instr.jmpIndirect 0x10FF).text 0x0600 = some "JMP ($10FF)" := by decide

/-! ## Vectors: one step from the start state S0 of 95_test_vectors.md -/

/-- S0 with RAM holding `m`, in configuration E1. -/
def start (v : Variant) (m : Memory) (pc : Addr) : State :=
  { State.reset with
    cfg := { Config.default with variant := v }
    devices := [.ram 0x0000 0xFFFF m, .cpu]
    pc := pc
    instrCycles := 0 }

/-- The state after one step; unchanged where the step has no next state. -/
def after (s : State) : State :=
  match step s with
  | .next t => t
  | _ => s

/-- The byte at `a`. -/
def byteAt (s : State) (a : Addr) : Byte := (memRead s a).1

theorem test_V_AM1 :
    let t := after { start .nmos [(0x1, 0x77), (0x101, 0x11), (0x600, 0xB5), (0x601, 0xFF)] 0x0600 with x := 0x02 }
    (t.a, t.pc, t.instrCycles) = (0x77, 0x602, 3) := by decide

theorem test_V_AM2 :
    let t := after { start .nmos [(0x10, 0x99), (0x600, 0xB6), (0x601, 0xF0)] 0x0600 with y := 0x20 }
    (t.x, t.pc, t.p.n, t.instrCycles) = (0x99, 0x602, true, 3) := by decide

theorem test_V_AM3 :
    let t := after { start .nmos [(0x1, 0x42), (0x600, 0xBD), (0x601, 0xFF), (0x602, 0xFF)] 0x0600 with x := 0x02 }
    (t.a, t.pc, t.instrCycles) = (0x42, 0x603, 3) := by decide

theorem test_V_AM8 :
    let t := after (start .nmos [(0x600, 0x6C), (0x601, 0xFF), (0x602, 0x10), (0x1000, 0x12), (0x10FF, 0x34), (0x1100, 0x56)] 0x0600)
    (t.pc, t.instrCycles) = (0x1234, 4) := by decide

theorem test_V_AM9 :
    let t := after (start .nmos [(0x600, 0x6C), (0x602, 0x20), (0x2000, 0x78), (0x2001, 0x56)] 0x0600)
    (t.pc, t.instrCycles) = (0x5678, 4) := by decide

theorem test_V_LS3 :
    let t := after (start .nmos [(0x600, 0xA2), (0x601, 0xFF)] 0x0600)
    (t.x, t.pc, t.p.n, t.instrCycles) = (0xFF, 0x602, true, 1) := by decide

theorem test_V_LS4 :
    let t := after (start .nmos [(0x600, 0xAC), (0x601, 0x34), (0x602, 0x12)] 0x0600)
    (t.pc, t.p.z, t.instrCycles) = (0x603, true, 3) := by decide

theorem test_V_LS5 :
    let t := after { start .nmos [(0x21, 0x30), (0x600, 0x91), (0x601, 0x20)] 0x0600 with a := 0xC3, y := 0x05 }
    (t.pc, byteAt t 0x3005, t.instrCycles) = (0x602, 0xC3, 5) := by decide

theorem test_V_LS6 :
    let t := after { start .nmos [(0x600, 0x9D), (0x601, 0xFF), (0x602, 0x01)] 0x0600 with a := 0x11, x := 0x01 }
    (t.pc, byteAt t 0x0200, t.instrCycles) = (0x603, 0x11, 4) := by decide

theorem test_V_LS7 :
    let t := after { start .nmos [(0x600, 0x8E), (0x602, 0x03)] 0x0600 with x := 0x9C }
    (t.pc, byteAt t 0x0300, t.instrCycles) = (0x603, 0x9C, 3) := by decide

theorem test_V_LS8 :
    let t := after { start .nmos [(0x600, 0x94), (0x601, 0xFF)] 0x0600 with x := 0x01, y := 0x22 }
    (t.pc, byteAt t 0x0000, t.instrCycles) = (0x602, 0x22, 3) := by decide

theorem test_V_LS9 :
    let t := after { start .cmos [(0x200, 0x99), (0x600, 0x9C), (0x602, 0x02)] 0x0600 with a := 0x11 }
    (t.pc, byteAt t 0x0200, t.instrCycles) = (0x603, 0x00, 3) := by decide

theorem test_V_LS10 :
    let t := after (start .nmos [(0x600, 0x9C), (0x602, 0x02)] 0x0600)
    (t.fault, t.pc, t.totalCycles) = (some (.notImplemented 0x9C 0x0600), 0x0600, 0) := by decide

theorem test_V_TS1 :
    let t := after { start .nmos [(0x600, 0xAA)] 0x0600 with x := 0x33 }
    (t.x, t.pc, t.p.z, t.instrCycles) = (0x00, 0x601, true, 1) := by decide

theorem test_V_TS2 :
    let t := after { start .nmos [(0x600, 0xBA)] 0x0600 with sp := 0x00 }
    (t.pc, t.p.z, t.instrCycles) = (0x601, true, 1) := by decide

theorem test_V_TS3 :
    let t := after { start .nmos [(0x600, 0x9A)] 0x0600 with p := { Status.reset with n := true } }
    (t.sp, t.pc, t.instrCycles) = (0x00, 0x601, 1) := by decide

theorem test_V_TS4 :
    let t := after { start .nmos [(0x600, 0x48)] 0x0600 with a := 0x77, sp := 0x00 }
    (t.sp, t.pc, byteAt t 0x0100, t.instrCycles) = (0xFF, 0x601, 0x77, 2) := by decide

theorem test_V_TS5 :
    let t := after { start .nmos [(0x600, 0x08)] 0x0600 with p := { Status.reset with n := true, v := true, d := true, z := true, c := true } }
    (t.sp, t.pc, byteAt t 0x01FD, t.instrCycles) = (0xFC, 0x601, 0xFF, 2) := by decide

theorem test_V_TS6 :
    let t := after { start .nmos [(0x100, 0x80), (0x600, 0x68)] 0x0600 with sp := 0xFF }
    (t.a, t.sp, t.pc, t.p.n, t.instrCycles) = (0x80, 0x00, 0x601, true, 3) := by decide

theorem test_V_TS7 :
    let t := after { start .nmos [(0x1FD, 0x10), (0x600, 0x28)] 0x0600 with sp := 0xFC }
    (t.sp, t.pc, t.p.b, t.p.i, t.instrCycles) = (0xFD, 0x601, true, false, 3) := by decide

theorem test_V_TS8 :
    let t := after { start .nmos [(0x1FD, 0xEB), (0x600, 0x28)] 0x0600 with sp := 0xFC }
    (t.sp, t.pc, t.p.n, t.p.v, t.p.d, t.p.i, t.p.z, t.p.c, t.instrCycles) = (0xFD, 0x601, true, true, true, false, true, true, 3) := by rfl

theorem test_V_TS9 :
    let t := after { start .cmos [(0x600, 0x5A)] 0x0600 with y := 0xAB }
    (t.sp, t.pc, byteAt t 0x01FD, t.instrCycles) = (0xFC, 0x601, 0xAB, 2) := by decide

theorem test_V_TS10 :
    let t := after { start .cmos [(0x600, 0xFA)] 0x0600 with sp := 0xFC }
    (t.sp, t.pc, t.p.z, t.instrCycles) = (0xFD, 0x601, true, 3) := by decide

theorem test_V_AR1 :
    let t := after { start .nmos [(0x600, 0x69), (0x601, 0x01)] 0x0600 with a := 0xFF }
    (t.a, t.pc, t.p.z, t.p.c, t.instrCycles) = (0x00, 0x602, true, true, 1) := by decide

theorem test_V_AR2 :
    let t := after { start .nmos [(0x600, 0x69)] 0x0600 with a := 0x7F, p := { Status.reset with c := true } }
    (t.a, t.pc, t.p.n, t.p.v, t.p.c, t.instrCycles) = (0x80, 0x602, true, true, false, 1) := by decide

theorem test_V_AR6 :
    let t := after (start .nmos [(0x600, 0xE9)] 0x0600)
    (t.a, t.pc, t.p.n, t.instrCycles) = (0xFF, 0x602, true, 1) := by decide

theorem test_V_AR7 :
    let t := after { start .nmos [(0x600, 0xE9), (0x601, 0xB0)] 0x0600 with a := 0x50, p := { Status.reset with c := true } }
    (t.a, t.pc, t.p.n, t.p.v, t.p.c, t.instrCycles) = (0xA0, 0x602, true, true, false, 1) := by decide

theorem test_V_BCD13 :
    let t := after { start .nmos [(0x10, 0x09), (0x600, 0xE6), (0x601, 0x10)] 0x0600 with p := { Status.reset with d := true } }
    (t.pc, byteAt t 0x0010, t.instrCycles) = (0x602, 0x0A, 4) := by decide

theorem test_V_CP1 :
    let t := after { start .nmos [(0x600, 0xC9), (0x601, 0x42)] 0x0600 with a := 0x42 }
    (t.pc, t.p.z, t.p.c, t.instrCycles) = (0x602, true, true, 1) := by decide

theorem test_V_CP2 :
    let t := after (start .nmos [(0x600, 0xC9), (0x601, 0x80)] 0x0600)
    (t.pc, t.p.n, t.instrCycles) = (0x602, true, 1) := by decide

theorem test_V_CP5 :
    let t := after { start .nmos [(0x600, 0xE0), (0x601, 0x06)] 0x0600 with x := 0x05 }
    (t.pc, t.p.n, t.instrCycles) = (0x602, true, 1) := by decide

theorem test_V_CP6 :
    let t := after (start .nmos [(0x600, 0xC0), (0x601, 0x01)] 0x0600)
    (t.pc, t.p.n, t.instrCycles) = (0x602, true, 1) := by decide

theorem test_V_ID1 :
    let t := after (start .nmos [(0x2FF, 0xFF), (0x600, 0xEE), (0x601, 0xFF), (0x602, 0x02)] 0x0600)
    (t.pc, t.p.z, byteAt t 0x02FF, t.instrCycles) = (0x603, true, 0x00, 5) := by decide

theorem test_V_ID2 :
    let t := after { start .nmos [(0x600, 0xD6), (0x601, 0xFF)] 0x0600 with x := 0x02 }
    (t.pc, t.p.n, byteAt t 0x0001, t.instrCycles) = (0x602, true, 0xFF, 5) := by decide

theorem test_V_ID3 :
    let t := after { start .nmos [(0x600, 0xE8)] 0x0600 with x := 0xFF }
    (t.x, t.pc, t.p.z, t.instrCycles) = (0x00, 0x601, true, 1) := by decide

theorem test_V_ID4 :
    let t := after (start .nmos [(0x600, 0x88)] 0x0600)
    (t.y, t.pc, t.p.n, t.instrCycles) = (0xFF, 0x601, true, 1) := by decide

theorem test_V_ID5 :
    let t := after { start .cmos [(0x600, 0x1A)] 0x0600 with a := 0x7F }
    (t.a, t.pc, t.p.n, t.instrCycles) = (0x80, 0x601, true, 1) := by decide

theorem test_V_ID6 :
    let t := after (start .cmos [(0x600, 0x3A)] 0x0600)
    (t.a, t.pc, t.p.n, t.instrCycles) = (0xFF, 0x601, true, 1) := by decide

theorem test_V_LG1 :
    let t := after { start .nmos [(0x600, 0x29), (0x601, 0x0F)] 0x0600 with a := 0xF0 }
    (t.a, t.pc, t.p.z, t.instrCycles) = (0x00, 0x602, true, 1) := by decide

theorem test_V_LG2 :
    let t := after (start .nmos [(0x10, 0x80), (0x600, 0x05), (0x601, 0x10)] 0x0600)
    (t.a, t.pc, t.p.n, t.instrCycles) = (0x80, 0x602, true, 2) := by decide

theorem test_V_LG3 :
    let t := after { start .nmos [(0x600, 0x49), (0x601, 0xFF)] 0x0600 with a := 0x5A }
    (t.a, t.pc, t.p.n, t.instrCycles) = (0xA5, 0x602, true, 1) := by decide

theorem test_V_LG4 :
    let t := after { start .nmos [(0x600, 0x2C), (0x602, 0x40), (0x4000, 0x40)] 0x0600 with a := 0xFF }
    (t.pc, t.p.v, t.instrCycles) = (0x603, true, 3) := by decide

theorem test_V_LG5 :
    let t := after { start .nmos [(0x10, 0x01), (0x600, 0x24), (0x601, 0x10)] 0x0600 with a := 0x01, p := { Status.reset with n := true, v := true } }
    (t.pc, t.p.n, t.p.v, t.instrCycles) = (0x602, false, false, 2) := by decide

theorem test_V_LG6 :
    let t := after { start .cmos [(0x600, 0x89), (0x601, 0xC0)] 0x0600 with a := 0x0F, p := { Status.reset with n := true, v := true } }
    (t.pc, t.p.z, t.instrCycles) = (0x602, true, 1) := by decide

theorem test_V_LG7 :
    let t := after { start .nmos [(0x600, 0x0A)] 0x0600 with a := 0x80 }
    (t.a, t.pc, t.p.z, t.p.c, t.instrCycles) = (0x00, 0x601, true, true, 1) := by decide

theorem test_V_LG8 :
    let t := after (start .nmos [(0x10, 0x41), (0x600, 0x06), (0x601, 0x10)] 0x0600)
    (t.pc, t.p.n, byteAt t 0x0010, t.instrCycles) = (0x602, true, 0x82, 4) := by decide

theorem test_V_LG9 :
    let t := after { start .nmos [(0x600, 0x4A)] 0x0600 with a := 0x01 }
    (t.a, t.pc, t.p.z, t.p.c, t.instrCycles) = (0x00, 0x601, true, true, 1) := by decide

theorem test_V_LG10 :
    let t := after { start .nmos [(0x600, 0x2A)] 0x0600 with a := 0x80, p := { Status.reset with c := true } }
    (t.a, t.pc, t.instrCycles) = (0x01, 0x601, 1) := by decide

theorem test_V_LG11 :
    let t := after { start .nmos [(0x300, 0x01), (0x600, 0x6E), (0x602, 0x03)] 0x0600 with p := { Status.reset with c := true } }
    (t.pc, t.p.n, byteAt t 0x0300, t.instrCycles) = (0x603, true, 0x80, 5) := by decide

theorem test_V_LG12 :
    let t := after { start .nmos [(0x600, 0x6A)] 0x0600 with a := 0x01 }
    (t.a, t.pc, t.p.z, t.p.c, t.instrCycles) = (0x00, 0x601, true, true, 1) := by decide

theorem test_V_LG13 :
    let t := after { start .cmos [(0x300, 0x01), (0x600, 0x0C), (0x602, 0x03)] 0x0600 with a := 0x81 }
    (t.pc, byteAt t 0x0300, t.instrCycles) = (0x603, 0x81, 5) := by decide

theorem test_V_LG14 :
    let t := after { start .cmos [(0x10, 0xF0), (0x600, 0x14), (0x601, 0x10)] 0x0600 with a := 0x0F }
    (t.pc, t.p.z, t.instrCycles) = (0x602, true, 4) := by decide

theorem test_V_LG15 :
    let t := after (start .cmos [(0x10, 0xFF), (0x600, 0x37), (0x601, 0x10)] 0x0600)
    (t.pc, byteAt t 0x0010, t.instrCycles) = (0x602, 0xF7, 4) := by decide

theorem test_V_LG16 :
    let t := after (start .cmos [(0x600, 0xF7), (0x601, 0x10)] 0x0600)
    (t.pc, byteAt t 0x0010, t.instrCycles) = (0x602, 0x80, 4) := by decide

theorem test_V_BR1 :
    let t := after (start .nmos [(0x608, 0xD0), (0x609, 0xFB)] 0x0608)
    (t.pc, t.instrCycles) = (0x605, 1) := by decide

theorem test_V_BR2 :
    let t := after { start .nmos [(0x608, 0xD0), (0x609, 0xFB)] 0x0608 with p := { Status.reset with z := true } }
    (t.pc, t.instrCycles) = (0x60A, 1) := by decide

theorem test_V_BR3 :
    let t := after (start .nmos [(0x600, 0x10), (0x601, 0x7F)] 0x0600)
    (t.pc, t.instrCycles) = (0x681, 1) := by decide

theorem test_V_BR4 :
    let t := after { start .nmos [(0x600, 0x30), (0x601, 0x80)] 0x0600 with p := { Status.reset with n := true } }
    (t.pc, t.instrCycles) = (0x582, 1) := by decide

theorem test_V_BR5 :
    let t := after { start .nmos [(0xFFF0, 0xB0), (0xFFF1, 0x10)] 0xFFF0 with p := { Status.reset with c := true } }
    (t.pc, t.instrCycles) = (0x02, 1) := by decide

theorem test_V_BR6 :
    let t := after (start .nmos [(0x2, 0x90), (0x3, 0xF0)] 0x0002)
    (t.pc, t.instrCycles) = (0xFFF4, 1) := by decide

theorem test_V_BR7 :
    let t := after { start .nmos [(0x600, 0x50), (0x601, 0x02)] 0x0600 with p := { Status.reset with v := true } }
    (t.pc, t.instrCycles) = (0x602, 1) := by decide

theorem test_V_BR8 :
    let t := after { start .nmos [(0x600, 0x70), (0x601, 0x02)] 0x0600 with p := { Status.reset with v := true } }
    (t.pc, t.instrCycles) = (0x604, 1) := by decide

theorem test_V_BR9 :
    let t := after { start .nmos [(0x600, 0xF0)] 0x0600 with p := { Status.reset with z := true } }
    (t.pc, t.instrCycles) = (0x602, 1) := by decide

theorem test_V_BR10 :
    let t := after (start .cmos [(0x600, 0x80), (0x601, 0xFE)] 0x0600)
    (t.pc, t.instrCycles) = (0x600, 2) := by decide

theorem test_V_BR11 :
    let t := after (start .cmos [(0x10, 0xFB), (0x600, 0x2F), (0x601, 0x10), (0x602, 0x05)] 0x0600)
    (t.pc, t.instrCycles) = (0x608, 4) := by decide

theorem test_V_BR12 :
    let t := after (start .cmos [(0x10, 0x04), (0x600, 0x2F), (0x601, 0x10), (0x602, 0x05)] 0x0600)
    (t.pc, t.instrCycles) = (0x603, 4) := by decide

theorem test_V_BR13 :
    let t := after (start .cmos [(0x10, 0x80), (0x600, 0xFF), (0x601, 0x10), (0x602, 0xFD)] 0x0600)
    (t.pc, t.instrCycles) = (0x600, 4) := by decide

theorem test_V_BR14 :
    let t := after (start .cmos [(0x10, 0xFE), (0x600, 0x8F), (0x601, 0x10), (0x602, 0xFD)] 0x0600)
    (t.pc, t.instrCycles) = (0x603, 4) := by decide

theorem test_V_JP1 :
    let t := after (start .nmos [(0x600, 0x4C), (0x601, 0x34), (0x602, 0x12)] 0x0600)
    (t.pc, t.instrCycles) = (0x1234, 2) := by decide

theorem test_V_JP4 :
    let t := after (start .nmos [(0x60A, 0x20), (0x60C, 0x80)] 0x060A)
    (t.sp, t.pc, byteAt t 0x01FC, byteAt t 0x01FD, t.instrCycles) = (0xFB, 0x8000, 0x0C, 0x06, 5) := by decide

theorem test_V_JP5 :
    let t := after { start .nmos [(0x600, 0x20), (0x602, 0x80)] 0x0600 with sp := 0x00 }
    (t.sp, t.pc, byteAt t 0x0100, byteAt t 0x01FF, t.instrCycles) = (0xFE, 0x8000, 0x06, 0x02, 5) := by decide

theorem test_V_JP6 :
    let t := after { start .nmos [(0x1FC, 0x0C), (0x1FD, 0x06), (0x600, 0x60)] 0x0600 with sp := 0xFB }
    (t.sp, t.pc, t.instrCycles) = (0xFD, 0x60D, 5) := by decide

theorem test_V_JP7 :
    let t := after { start .nmos [(0x1FC, 0xFF), (0x1FD, 0xFF), (0x600, 0x60)] 0x0600 with sp := 0xFB }
    (t.sp, t.pc, t.instrCycles) = (0xFD, 0x00, 5) := by decide

theorem test_V_SY1 :
    let t := after (start .nmos [(0x301, 0xEA), (0xFFFF, 0x80)] 0x0300)
    (t.sp, t.pc, byteAt t 0x01FB, byteAt t 0x01FC, byteAt t 0x01FD, t.instrCycles) = (0xFA, 0x8000, 0x34, 0x02, 0x03, 6) := by decide

theorem test_V_SY2 :
    let t := after { start .nmos [(0xFFFF, 0x90)] 0x0600 with p := { Status.reset with d := true, i := false, c := true } }
    (t.sp, t.pc, t.p.i, byteAt t 0x01FB, byteAt t 0x01FC, byteAt t 0x01FD, t.instrCycles) = (0xFA, 0x9000, true, 0x39, 0x02, 0x06, 6) := by decide

theorem test_V_SY3 :
    let t := after { start .nmos [(0x1FB, 0xE3), (0x1FC, 0x01), (0x1FD, 0x06), (0x600, 0x40)] 0x0600 with sp := 0xFA }
    (t.sp, t.pc, t.p.n, t.p.v, t.p.b, t.p.i, t.p.z, t.p.c, t.instrCycles) = (0xFD, 0x601, true, true, true, false, true, true, 5) := by rfl

theorem test_V_SY4 :
    let t := after { start .nmos [(0x1FC, 0x34), (0x1FD, 0x12), (0x600, 0x40)] 0x0600 with sp := 0xFA }
    (t.sp, t.pc, t.p.b, t.p.i, t.instrCycles) = (0xFD, 0x1234, true, false, 5) := by decide

theorem test_V_SY5 :
    let t := after { start .nmos [(0x600, 0x18)] 0x0600 with p := { Status.reset with c := true } }
    (t.pc, t.p.c, t.instrCycles) = (0x601, false, 1) := by decide

theorem test_V_SY6 :
    let t := after (start .nmos [(0x600, 0x38)] 0x0600)
    (t.pc, t.p.c, t.instrCycles) = (0x601, true, 1) := by decide

theorem test_V_SY7 :
    let t := after (start .nmos [(0x600, 0x58)] 0x0600)
    (t.pc, t.p.i, t.instrCycles) = (0x601, false, 1) := by decide

theorem test_V_SY8 :
    let t := after { start .nmos [(0x600, 0x78)] 0x0600 with p := { Status.reset with i := false } }
    (t.pc, t.p.i, t.instrCycles) = (0x601, true, 1) := by decide

theorem test_V_SY9 :
    let t := after { start .nmos [(0x600, 0xD8)] 0x0600 with p := { Status.reset with d := true } }
    (t.pc, t.p.d, t.instrCycles) = (0x601, false, 1) := by decide

theorem test_V_SY10 :
    let t := after (start .nmos [(0x600, 0xF8)] 0x0600)
    (t.pc, t.p.d, t.instrCycles) = (0x601, true, 1) := by decide

theorem test_V_SY11 :
    let t := after { start .nmos [(0x600, 0xB8)] 0x0600 with p := { Status.reset with v := true } }
    (t.pc, t.p.v, t.instrCycles) = (0x601, false, 1) := by decide

theorem test_V_SY12 :
    let t := after (start .nmos [(0x600, 0xEA)] 0x0600)
    (t.pc, t.instrCycles) = (0x601, 1) := by decide

theorem test_V_SY13 :
    let t := after (start .cmos [(0x600, 0xCB)] 0x0600)
    (t.pc, t.runState) = (0x601, .waiting) := by decide

theorem test_V_SY14 :
    let t := after (start .cmos [(0x600, 0xDB)] 0x0600)
    (t.pc, t.runState) = (0x601, .stopped) := by decide

theorem test_V_SY15 :
    let t := after (start .nmos [(0x600, 0x02)] 0x0600)
    (t.fault, t.pc, t.totalCycles) = (some (.invalidOpcode 0x02 0x0600), 0x0600, 0) := by decide

theorem test_V_SY16 :
    let t := after (start .nmos [(0x600, 0xF2)] 0x0600)
    (t.fault, t.pc, t.totalCycles) = (some (.invalidOpcode 0xF2 0x0600), 0x0600, 0) := by decide

theorem test_V_SY17 :
    let t := after (start .cmos [(0x600, 0x02)] 0x0600)
    (t.fault, t.pc, t.totalCycles) = (some (.notImplemented 0x02 0x0600), 0x0600, 0) := by decide

theorem test_V_SY18 :
    let t := after (start .nmos [(0x600, 0xA7), (0x601, 0x10)] 0x0600)
    (t.fault, t.pc, t.totalCycles) = (some (.notImplemented 0xA7 0x0600), 0x0600, 0) := by decide

theorem test_V_SY20 :
    let t := after (start .cmos [(0x600, 0xB2), (0x601, 0x10)] 0x0600)
    (t.fault, t.pc, t.totalCycles) = (some (.notImplemented 0xB2 0x0600), 0x0600, 0) := by decide

/-! The instructions without a vector of their own, from the pseudocode of their rules. -/

/-- R151. -/
theorem test_tay_negative :
    let t := after { start .nmos [(0x600, 0xA8)] 0x600 with a := 0x80 }
    (t.y, t.p.n, t.p.z, t.instrCycles) = (0x80, true, false, 1) := by decide

/-- R152. -/
theorem test_txa_zero :
    let t := after { start .nmos [(0x600, 0x8A)] 0x600 with a := 0x55 }
    (t.a, t.p.z, t.instrCycles) = (0x00, true, 1) := by decide

/-- R153. -/
theorem test_tya :
    let t := after { start .nmos [(0x600, 0x98)] 0x600 with y := 0x81 }
    (t.a, t.p.n, t.instrCycles) = (0x81, true, 1) := by decide

/-- R160, at the bottom of the stack page. -/
theorem test_phx_wraps :
    let t := after { start .cmos [(0x600, 0xDA)] 0x600 with x := 0x77, sp := 0x00 }
    (t.sp, byteAt t 0x0100, t.instrCycles) = (0xFF, 0x77, 2) := by decide

/-- R163. -/
theorem test_ply :
    let t := after { start .cmos [(0x1FD, 0x80), (0x600, 0x7A)] 0x600 with sp := 0xFC }
    (t.y, t.sp, t.p.n, t.instrCycles) = (0x80, 0xFD, true, 3) := by decide

/-- R182. -/
theorem test_iny_wraps :
    let t := after { start .nmos [(0x600, 0xC8)] 0x600 with y := 0xFF }
    (t.y, t.p.z, t.instrCycles) = (0x00, true, 1) := by decide

/-- R183. -/
theorem test_dex_wraps :
    let t := after (start .nmos [(0x600, 0xCA)] 0x600)
    (t.x, t.p.n, t.instrCycles) = (0xFF, true, 1) := by decide

/-- R211, every bit: RMBn of $FF. -/
theorem test_rmb_each_bit :
    ([0x07, 0x17, 0x27, 0x37, 0x47, 0x57, 0x67, 0x77] : List Byte).map
        (fun op => byteAt (after (start .cmos [(0x10, 0xFF), (0x600, op), (0x601, 0x10)] 0x600)) 0x10) =
      [0xFE, 0xFD, 0xFB, 0xF7, 0xEF, 0xDF, 0xBF, 0x7F] := by decide

/-- R212, every bit: SMBn of $00. -/
theorem test_smb_each_bit :
    ([0x87, 0x97, 0xA7, 0xB7, 0xC7, 0xD7, 0xE7, 0xF7] : List Byte).map
        (fun op => byteAt (after (start .cmos [(0x600, op), (0x601, 0x10)] 0x600)) 0x10) =
      [0x01, 0x02, 0x04, 0x08, 0x10, 0x20, 0x40, 0x80] := by decide

/-- R243, every bit: BBRn of a byte whose bits 0, 2, 4 and 6 are 1 branches for the odd bits. -/
theorem test_bbr_each_bit :
    ([0x0F, 0x1F, 0x2F, 0x3F, 0x4F, 0x5F, 0x6F, 0x7F] : List Byte).map
        (fun op => (after (start .cmos [(0x10, 0x55), (0x600, op), (0x601, 0x10), (0x602, 0x05)] 0x600)).pc) =
      [0x603, 0x608, 0x603, 0x608, 0x603, 0x608, 0x603, 0x608] := by decide

/-- R244, every bit: BBSn of the same byte branches for the even bits. -/
theorem test_bbs_each_bit :
    ([0x8F, 0x9F, 0xAF, 0xBF, 0xCF, 0xDF, 0xEF, 0xFF] : List Byte).map
        (fun op => (after (start .cmos [(0x10, 0x55), (0x600, op), (0x601, 0x10), (0x602, 0x05)] 0x600)).pc) =
      [0x608, 0x603, 0x608, 0x603, 0x608, 0x603, 0x608, 0x603] := by decide

/-! ## Interrupts, run states, faults, breakpoints: V-IN, V-BK, V-BP of 95_test_vectors.md -/

/-- The RAM of those vectors, with the vectors NMI $0900, RESET $0600, IRQ $0700 and one opcode at $0600. -/
def vectors (op : Byte) : Memory := [(0x600, op), (0xFFFB, 0x09), (0xFFFD, 0x06), (0xFFFF, 0x07)]

theorem test_V_IN1 :
    let t := after { start .nmos (vectors 0xEA) 0x600 with irqPending := some .host }
    (t.pc, t.irqPending, t.instrCycles) = (0x601, some .host, 1) := by decide

theorem test_V_IN2 :
    let t := after { start .nmos (vectors 0xEA) 0x600 with nmiPending := some .host }
    (t.pc, t.sp, t.nmiPending, t.instrCycles) = (0x900, 0xFA, none, 6) ∧
      (byteAt t 0x1FD, byteAt t 0x1FC, byteAt t 0x1FB) = (0x06, 0x00, 0x24) := by decide

theorem test_V_IN3 :
    let t := after
      { start .nmos (vectors 0xEA) 0x600 with
        nmiPending := some .host, irqPending := some .host, p := { Status.reset with i := false } }
    (t.pc, t.nmiPending, t.irqPending, t.p.i, byteAt t 0x1FB) = (0x900, none, some .host, true, 0x20) := by decide

theorem test_V_IN4 :
    let t := after
      { start .nmos (vectors 0xEA) 0x600 with irqPending := some .host, p := { Status.reset with i := false, c := true } }
    (t.pc, t.irqPending, t.p.i, t.p.c, byteAt t 0x1FB) = (0x700, none, true, true, 0x21) := by decide

/-- V-IN5, the waking call. -/
theorem test_V_IN5_wake :
    let t := after { start .cmos (vectors 0xEA) 0x600 with runState := .waiting, irqPending := some .host }
    (t.runState, t.instrCycles, t.totalCycles, t.irqPending) = (.normal, 1, 0, some .host) := by decide

/-- V-IN7, the waking call. -/
theorem test_V_IN7_wake :
    let t := after
      { start .cmos (vectors 0xDB) 0x601 with
        runState := .stopped, sp := 0x80, nmiPending := some .host, irqPending := some .host }
    (t.pc, t.runState, t.instrCycles, t.sp, t.nmiPending, t.irqPending) = (0x600, .normal, 1, 0x80, none, none) := by
  decide

theorem test_V_BK1 :
    let s := start .nmos [] 0x600
    let t := after { s with cfg := { s.cfg with brkIsStop := true } }
    (t.fault, t.pc, t.instrCycles) = (some (.brkStop 0x00 0x600), 0x600, 0) := by decide

theorem test_V_BK2 :
    let s := start .nmos (vectors 0x00) 0x600
    let t := after
      { s with cfg := { s.cfg with brkIsStop := true }, irqPending := some .host, p := { Status.reset with i := false } }
    (t.fault, t.pc, byteAt t 0x1FB) = (none, 0x700, 0x20) := by decide

/-- R325: a faulted machine has no step. -/
theorem test_faulted_machine_stops :
    step { start .nmos [] 0x600 with fault := some (.invalidOpcode 0x02 0x0600) } = .fault (.invalidOpcode 0x02 0x0600) := rfl

/-- V-BP1: the handler answers ($0600, $EA). -/
theorem test_V_BP1 :
    let s := start .nmos [] 0x600
    let t := after
      { s with
        cfg := { s.cfg with breakpoints := [0x600] }
        io := { s.io with answers := [0x00, 0x06, 0xEA] } }
    (t.pc, t.instrCycles, byteAt t 0x600) = (0x601, 1, 0x00) := by decide

/-- V-BP2, with one redirect allowed: the handler answers ($0700, op). -/
theorem test_V_BP2 :
    let s := start .nmos [(0x700, 0xEA)] 0x600
    let t := after
      { s with
        cfg := { s.cfg with breakpoints := [0x600], maxRedirects := 1 }
        io := { s.io with answers := [0x00, 0x07, 0x00] } }
    (t.pc, t.instrCycles) = (0x701, 1) := by decide

/-- V-BP3, with no redirect allowed. -/
theorem test_V_BP3 :
    let s := start .nmos [(0x600, 0xEA)] 0x600
    let t := after
      { s with cfg := { s.cfg with breakpoints := [0x600] }, io := { s.io with answers := [0x01, 0x06, 0xEA] } }
    (t.fault, t.pc, t.totalCycles) = (some (.breakpointRedirectLimit 0xEA 0x600), 0x600, 0) := by decide

/-! ## The Bus and the devices: V-BUS, V-TM, V-DV of 95_test_vectors.md -/

/-- Configuration E3, with bytes at $0600. -/
def e3 (m : Memory) (pc : Addr) : State :=
  { start .nmos [] pc with devices := [.ram 0x0000 0x0FFF m, .ram 0x0800 0x17FF [], .cpu] }

theorem test_V_BUS1 : (after (e3 [(0x600, 0xAD), (0x602, 0x20)] 0x600)).a = 0xFF := by decide

theorem test_V_BUS2 :
    (after { e3 [(0x600, 0x8D), (0x602, 0x09)] 0x600 with a := 0x55 }).devices =
      [.ram 0x0000 0x0FFF [(0x600, 0x8D), (0x602, 0x09), (0x900, 0x55)], .ram 0x0800 0x17FF [(0x900, 0x55)], .cpu] := by
  decide

/-- The devices of E2 that V-TM and V-DV touch, with the CPU last. -/
def e2 (m : Memory) (t : Timer) : State :=
  { start .nmos [] 0x600 with
    devices :=
      [.ram 0x0000 0xCFFF m, .timer 0xD000 t, .parallel 0xD010 0x41, .display 0xD020 ⟨3, 2, 5, 6, 0x0100, 0⟩,
        .keyboard 0xD030, .rtc 0xD050, .cpu] }

/-- R333: the timer fires on the clock that brings its counter to the interval, and its request is serviced in that call (R309). -/
theorem test_timer_fires :
    let t := after { e2 [(0x600, 0xEA)] ⟨true, true, 0xAA22, 0xAA21⟩ with sp := 0xFF }
    (t.devices[1]?, t.instrCycles, t.sp, t.nmiPending) = (some (.timer 0xD000 ⟨true, true, 0xAA22, 0⟩), 6, 0xFC, none) := by
  decide

/-- V-TM3: enabling from disabled resets the counter (STA $D000). -/
theorem test_V_TM3 :
    (after { e2 [(0x600, 0x8D), (0x602, 0xD0)] ⟨false, false, 0xAA22, 100⟩ with a := 0x01 }).devices[1]? =
      some (.timer 0xD000 ⟨true, false, 0xAA22, 0⟩) := by decide

/-- V-DV1: STA $D011 with bit 0 set emits the data byte. -/
theorem test_V_DV1 :
    (after { e2 [(0x600, 0x8D), (0x601, 0x11), (0x602, 0xD0)] ⟨false, false, 0, 0⟩ with a := 0x01 }).io.events =
      [.parallelChar 0x41] := by decide

/-- V-DV2: STA $D022. -/
theorem test_V_DV2 :
    (after { e2 [(0x600, 0x8D), (0x601, 0x22), (0x602, 0xD0)] ⟨false, false, 0, 0⟩ with a := 0x41 }).io.events =
      [.setChar 3 2 0x41] := by decide

/-- V-DV4: STA $D023 writes the low byte of pixelX. -/
theorem test_V_DV4 :
    (after { e2 [(0x600, 0x8D), (0x601, 0x23), (0x602, 0xD0)] ⟨false, false, 0, 0⟩ with a := 0x2C }).devices[3]? =
      some (.display 0xD020 ⟨3, 2, 5, 6, 0x012C, 0⟩) := by decide

/-- V-DV5: a keyboard read pops one character. -/
theorem test_V_DV5 :
    let s := e2 [(0x600, 0xAD), (0x601, 0x30), (0x602, 0xD0)] ⟨false, false, 0, 0⟩
    let t := after { s with io := { s.io with answers := [0x48, 0x49] } }
    (t.a, t.io.answers) = (0x48, [0x49]) := by decide

/-- V-DV6: a write to the keyboard has no effect. -/
theorem test_V_DV6 :
    let s := e2 [(0x600, 0x8D), (0x601, 0x30), (0x602, 0xD0)] ⟨false, false, 0, 0⟩
    let t := after { s with a := 0xFF }
    (t.devices, t.io) = (s.devices, s.io) := by decide

/-- R337: TextOut emits the character and takes the new cursor from the host. -/
theorem test_text_out :
    let s := e2 [(0x600, 0x8D), (0x601, 0x2A), (0x602, 0xD0)] ⟨false, false, 0, 0⟩
    let t := after { s with a := 0x0A, io := { s.io with answers := [0x00, 0x07] } }
    (t.io.events, t.devices[3]?) = ([.textOut 0x0A], some (.display 0xD020 ⟨3, 2, 0, 7, 0x0100, 0⟩)) := by decide

/-- RAM, a device of R308 at $D000 to $D003, and the CPU, at $0600; the host has `answers` ready. -/
def e4 (m : Memory) (answers : List Byte) : State :=
  { start .nmos [] 0x600 with
    devices := [.ram 0x0000 0xCFFF m, .other (some (0xD000, 0xD003)) [], .cpu]
    io := { events := [], answers := answers, draws := 0 } }

/-- R59, R73, R309: an NMI requested inside the `get` of LDA $D000 is latched while the instruction goes on. -/
theorem test_request_from_get :
    let t := after (e4 [(0x600, 0xAD), (0x602, 0xD0)] [0x00, 0x00, 0x00, 0x77, 0x01, 0x00])
    (t.a, t.pc, t.nmiPending, t.irqPending, t.instrCycles, t.devices[1]?) =
      (0x77, 0x603, some (.device 1), none, 3, some (.other (some (0xD000, 0xD003)) [.get 0xD000, .clock])) := by decide

/-- R59, R346: an IRQ requested and an event emitted inside the `set` of STA $D003. -/
theorem test_request_from_set :
    let t := after { e4 [(0x600, 0x8D), (0x601, 0x03), (0x602, 0xD0)] [0x00, 0x00, 0x00, 0x02, 0x01, 0x00, 0x41] with a := 0x55 }
    (t.irqPending, t.nmiPending, t.io.events, t.devices[1]?) =
      (some (.device 1), none, [.parallelChar 0x41], some (.other (some (0xD000, 0xD003)) [.set 0xD003 0x55, .clock])) := by
  decide

/-- R372, R373: another device that answers the RESET vector gives its two bytes and emits and requests nothing in the reset. -/
theorem test_reset_reads_quietly :
    let s := e4 [] [0x34, 0x12, 0x01, 0x02, 0x03]
    let t := busReset { s with cfg := { s.cfg with resetVec := 0xD000 } }
    (t.pc, t.a, t.x, t.y) = (0x1234, 0x01, 0x02, 0x03) ∧ t.io = { events := [], answers := [], draws := 0 } ∧
    t.nmiPending = none ∧ t.irqPending = none ∧
    t.devices[1]? = some (.other (some (0xD000, 0xD003)) [.get 0xD001, .get 0xD000, .reset]) := by decide

/-- R309: an NMI requested by the `clock` of a device before the CPU is serviced in the same call. -/
theorem test_request_from_clock :
    let t := after (e4 [(0x600, 0xEA)] [0x01, 0x00, 0x00])
    (t.sp, t.instrCycles, t.nmiPending) = (0xFA, 6, none) := by decide

/-- R51: a device before the CPU writes $EA at $0600 in its `clock`, and the CPU fetches it in the same call (R74). -/
theorem test_own_access :
    let t := after (e4 [] [0x00, 0x00, 0x01, 0x01, 0x00, 0x06, 0xEA])
    (t.pc, t.instrCycles, byteAt t 0x600) = (0x601, 1, 0xEA) := by decide

/-- R53: a device without a range is clocked and never read. -/
theorem test_other_without_range :
    let t := after { e4 [(0x600, 0xAD), (0x602, 0xD0)] [0x00, 0x00, 0x00] with devices := [.other none [], .ram 0x0000 0xCFFF [(0x600, 0xAD), (0x602, 0xD0)], .cpu] }
    (t.a, t.devices[0]?) = (0xFF, some (.other none [.clock])) := by decide

/-- R350: the run ends at a boundary at `END_ADDR`, with a masked IRQ latched too. -/
theorem test_run_ends : Ended 0x600 { start .nmos [] 0x600 with irqPending := some .host } :=
  ⟨_, ⟨by decide, rfl, rfl⟩, ⟨rfl, rfl, rfl⟩, rfl, by decide⟩

/-- R350, R309: not where a timer registered before the CPU fires in that very call. -/
theorem test_run_goes_on :
    let s := e2 [(0x600, 0xEA)] ⟨true, true, 0xAA22, 0xAA21⟩
    AtBoundary s ∧ s.pc = 0x600 ∧ eligible s = none ∧ ¬Ended 0x600 s := by
  refine ⟨⟨rfl, rfl, rfl⟩, rfl, by decide, ?_⟩
  rintro ⟨u, ⟨-, -, hu⟩, -, -, he⟩
  cases hu
  exact absurd he (by decide)

/-- V-RS1: the Bus reset zeroes the timer and keeps RAM. -/
theorem test_V_RS1 :
    let t := busReset (e2 [(0x600, 0xEA)] ⟨true, false, 0xAA22, 5⟩)
    (t.devices.take 2, t.sp, statusByte t) =
      ([.ram 0x0000 0xCFFF [(0x600, 0xEA)], .timer 0xD000 ⟨false, false, 0, 0⟩], 0xFD, 0x24) := by decide

/-- R321: a device that ends before it starts. -/
theorem test_bad_range_has_no_step :
    step { start .nmos [] 0x600 with devices := [.ram 0x10 0x0F [], .cpu] } = .refused .configurationError := rfl

/-! ## The first instruction after reset, placed by a word of the opcode table -/

theorem test_withFetchWord_lda :
    let t := after (State.reset.withFetchWord 16 0x80A9)
    (t.a, t.p.n, t.pc, t.instrCycles) = (0x80, true, 2, 1) := by decide

theorem test_withFetchWord_cmos :
    let t := after (State.reset.withFetchWord 24 0x0510FF)
    (t.pc, t.cfg.variant, t.instrCycles) = (0x0003, .cmos, 4) := by decide

theorem test_withFetchWord_jam :
    (after (State.reset.withFetchWord 8 0x32)).fault = some (.invalidOpcode 0x32 0x0000) := by decide

theorem test_decodeTableWord :
    decodeTableWord 24 0x123420 = some (.jsr 0x1234) ∧ decodeTableWord 8 0x02 = some (.jam 0x02) ∧
    decodeTableWord 8 0x03 = some (.notImplemented 0x03) ∧ decodeTableWord 8 0x4C = some (.jmp 0x0000) := by decide

/-! ## Witnesses: a state and operands that meet the hypotheses of a statement, all together -/

/-- A machine with a timer before the CPU and RAM on both sides, at a fetch boundary before an LDA # at $0600. -/
def sample : State :=
  { start .cmos [] 0x600 with
    devices := [.ram 0x0000 0x0FFF [(0x600, 0xA9), (0x601, 0x42)], .timer 0xD000 ⟨true, false, 100, 5⟩, .cpu, .rom 0xF000 0xFFFF []] }

/-- RAM answers the whole stack page of `sample`. -/
theorem sample_stack (sp : Byte) : RamAt sample.devices (stackAddr sp) := by
  refine ⟨0x0000, 0x0FFF, [(0x600, 0xA9), (0x601, 0x42)], ?_⟩
  revert sp
  decide

theorem sample_inv : Inv sample := by
  constructor
  · intro d hd
    simp only [sample, start, List.mem_cons, List.not_mem_nil, or_false] at hd
    rcases hd with rfl | rfl | rfl | rfl
    · exact ⟨by decide, by decide⟩
    · trivial
    · trivial
    · exact ⟨by decide, by decide⟩
  · intro h
    cases h
  · intro h
    cases h
  · trivial
  · trivial

theorem witness_DecodeEncodeRoundTrip :
    (Instr.bbr7 0xFF 0x80).wellFormed = true ∧ (Instr.bbr7 0xFF 0x80).inVariant .cmos = true ∧
    (Instr.jam 0xF2).wellFormed = true ∧ (Instr.jam 0xF2).inVariant .nmos = true := by decide

theorem witness_DecodedInstructionsReencode :
    decode .nmos [0x7D, 0xFF, 0xFF, 0x00] = .ok (.adc (.mem (.absoluteX 0xFFFF)), [0x00]) := rfl

theorem witness_DescriptorTableIsTotal :
    isFaultSlot .nmos 0x02 = true ∧ isFaultSlot .nmos 0xFF = true ∧ isFaultSlot .cmos 0x02 = true ∧ isFaultSlot .cmos 0xFC = true ∧
    isFaultSlot .nmos 0xEA = false := by
  decide

theorem witness_BusResetDevices :
    let s := { sample with devices := sample.devices ++ [.parallel 0xD010 0x41, .display 0xD020 ⟨1, 2, 3, 4, 5, 6⟩] }
    configOk sample = true ∧ sample.devices[1]? = some (.timer 0xD000 ⟨true, false, 100, 5⟩) ∧
    memoryByte sample.devices sample.cfg.resetVec = some 0x00 ∧ memoryByte sample.devices (sample.cfg.resetVec + 1) = some 0x00 ∧
    (∀ d ∈ sample.devices, ∀ range calls, d ≠ .other range calls) ∧
    (e4 [] []).devices[1]? = some (.other (some (0xD000, 0xD003)) []) ∧ configOk (e4 [] []) = true ∧
    configOk s = true ∧ s.devices[4]? = some (.parallel 0xD010 0x41) ∧
    s.devices[5]? = some (.display 0xD020 ⟨1, 2, 3, 4, 5, 6⟩) := by
  refine ⟨by decide, by decide, by decide, by decide, fun d hd range calls h => ?_, by decide, by decide, by decide,
    by decide, by decide⟩
  subst h
  simp [sample] at hd

theorem witness_StateResetIsBusReset :
    let s := { State.reset with a := 0xFF, sp := 0x00, io := { events := [], answers := [0, 0, 0], draws := 0 } }
    s.cfg = Config.default ∧ s.devices = defaultDevices ∧ s.io = { events := [], answers := [0, 0, 0], draws := 0 } := by
  decide

/-- For StepKeepsInvariant, StepKeepsConfiguration and StepCountsCyclesAndEvents. -/
theorem witness_StepKeepsInvariant : Inv sample ∧ ∃ t, step sample = .next t := by
  exact ⟨sample_inv, after sample, rfl⟩

/-- The same three, where the step raises a fault. -/
theorem witness_StepRaises : ∃ t, step (start .nmos [(0x600, 0x02)] 0x600) = .next t ∧ t.fault ≠ none := by
  exact ⟨after (start .nmos [(0x600, 0x02)] 0x600), rfl, by decide⟩

theorem witness_StepRunsDecodedInstruction :
    let s1 := clockOther 1 (.timer 0xD000 ⟨true, false, 100, 5⟩) { sample with clockCalls := 1 }
    configOk sample = true ∧ sample.fault = none ∧
    sample.devices =
      [.ram 0x0000 0x0FFF [(0x600, 0xA9), (0x601, 0x42)], .timer 0xD000 ⟨true, false, 100, 5⟩] ++ .cpu :: [.rom 0xF000 0xFFFF []] ∧
    clockDevices (List.range 2) { sample with clockCalls := sample.clockCalls + 1 } = .next s1 ∧
    s1.runState = .normal ∧ s1.instrCycles = 0 ∧ eligible s1 = none ∧ s1.pc ∉ s1.cfg.breakpoints ∧
    (s1.cfg.brkIsStop = true → (0xA9 : Byte) ≠ 0x00) ∧ BytesAt s1.devices s1.pc [0xA9, 0x42] ∧
    decode s1.cfg.variant [0xA9, 0x42] = .ok (.lda (.immediate 0x42), []) ∧ isFaultSlot s1.cfg.variant 0xA9 = false := by
  refine ⟨by decide, by decide, by decide, rfl, by decide, by decide, by decide, by decide, by decide, ?_, rfl, by decide⟩
  intro k b h
  match k, h with
  | 0, h =>
    cases h
    decide
  | 1, h =>
    cases h
    decide

theorem witness_TimePassingCycle :
    let s := { sample with instrCycles := 1 }
    s.runState = .normal ∧ 0 < s.instrCycles := by decide

theorem witness_InterruptEntry :
    let s := { sample with nmiPending := some .host }
    let u := { sample with irqPending := some (.device 1), p := { Status.reset with i := false } }
    (s.runState = .normal ∧ s.instrCycles = 0 ∧ eligible s = some .nmi ∧ RamAt s.devices (stackAddr s.sp)) ∧
    (u.runState = .normal ∧ u.instrCycles = 0 ∧ eligible u = some .irq ∧ RamAt u.devices (stackAddr (u.sp - 2))) := by
  exact ⟨⟨by decide, by decide, by decide, sample_stack _⟩, ⟨by decide, by decide, by decide, sample_stack _⟩⟩

/-- For the request clauses, and for a `get`, a `set` and a `clock` of a device of R308, at both ends of its range. -/
theorem witness_EligibilityAndRequests :
    let before := [Device.ram 0x0000 0xCFFF []]
    let other := Device.other (some (0xD000, 0xD003)) []
    let s := e4 [] [0x77, 0x03, 0x00, 0xEE]
    s.fault = none ∧ s.devices = before ++ other :: [.cpu] ∧ (∀ e ∈ before, deviceContains e 0xD000 = false) ∧
    (∀ e ∈ before, deviceContains e 0xD003 = false) ∧ (∀ e ∈ [Device.cpu], deviceContains e 0xD000 = false) ∧
    deviceContains other 0xD000 = true ∧ deviceContains other 0xD003 = true ∧
    s.io.answers = 0x77 :: 0x03 :: 0 :: [0xEE] ∧ (e4 [] [0x03, 0x00, 0x00]).io.answers = 0x03 :: 0 :: 0 :: [] := by decide

/-- The clock of a device of R308 behind RAM that answers every address. -/
theorem witness_EligibilityAndRequests_clock :
    let s :=
      { e4 [] [0x03, 0x00, 0x00] with devices := [.ram 0x0000 0xFFFF [], .other (some (0xD000, 0xD003)) [], .cpu] }
    s.fault = none ∧ s.devices = [.ram 0x0000 0xFFFF []] ++ .other (some (0xD000, 0xD003)) [] :: [.cpu] ∧
    s.io.answers = 0x03 :: 0 :: 0 :: [] := by decide

theorem witness_LatchesAreKept :
    let s := { sample with irqPending := some .host, p := { Status.reset with i := false } }
    let stopped := { sample with irqPending := some .host, runState := .stopped }
    let reads := e4 [(0x600, 0xAD), (0x602, 0xD0)] [0x77, 0x01, 0x00]
    (∃ t, cpuClock s = .next t ∧ t.irqPending ≠ s.irqPending) ∧
    (∃ t, cpuClock stopped = .next t ∧ t.irqPending = none) ∧
    ∃ t, cpuClock reads = .next t ∧ t.nmiPending = some (.device 1) := by
  refine ⟨⟨_, rfl, by decide⟩, ⟨_, rfl, by decide⟩, ⟨_, rfl, by decide⟩⟩

theorem witness_WaitingClock :
    let s := { sample with runState := .waiting }
    (s.runState = .waiting ∧ s.nmiPending = none ∧ s.irqPending = none) ∧
    ({ s with irqPending := some .host } : State).irqPending ≠ none := by decide

theorem witness_StoppedClock :
    let s := { sample with runState := .stopped }
    (s.runState = .stopped ∧ s.nmiPending = none ∧ s.irqPending = none) ∧
    ({ s with nmiPending := some .host } : State).nmiPending ≠ none := by decide

theorem witness_FaultSlotsRaise :
    let s := start .nmos [(0x600, 0x02)] 0x600
    (s.cfg.variant = .nmos ∧ (0x02 : Byte) ∈ jamSlots) ∧ (0x03 : Byte) ∈ notImplementedSlots s.cfg.variant ∧
    s.runState = .normal ∧ s.instrCycles = 0 ∧ eligible s = none ∧ s.pc ∉ s.cfg.breakpoints ∧
    memoryByte s.devices s.pc = some 0x02 := by decide

/-- For the clause about the whole call: the CPU faults with a timer registered after it, which is not clocked. -/
theorem witness_FaultSlotsRaise_call :
    let s := { start .nmos [] 0x600 with devices := [.ram 0x0000 0xCFFF [(0x600, 0x02)], .cpu, .timer 0xD000 ⟨true, false, 100, 5⟩] }
    configOk s = true ∧ s.fault = none ∧
    s.devices = [.ram 0x0000 0xCFFF [(0x600, 0x02)]] ++ .cpu :: [.timer 0xD000 ⟨true, false, 100, 5⟩] ∧
    clockDevices (List.range 1) { s with clockCalls := s.clockCalls + 1 } = .next { s with clockCalls := 1 } ∧
    (∃ t, cpuClock { s with clockCalls := 1 } = .next t ∧ t.fault ≠ none) ∧
    (after s).devices[2]? = some (.timer 0xD000 ⟨true, false, 100, 5⟩) := by
  refine ⟨by decide, rfl, rfl, rfl, ⟨_, rfl, ?_⟩, by decide⟩
  exact fun h => by cases h

theorem witness_StopOnBrkRaises : ({ sample with cfg := { sample.cfg with brkIsStop := true } } : State).cfg.brkIsStop = true := by
  decide

theorem witness_FaultedMachineHasNoStep :
    let s := { sample with fault := some (.invalidOpcode 0x02 0x600) }
    s.fault = some (.invalidOpcode 0x02 0x600) ∧ configOk s = true := by decide

/-- Both ways a range can be wrong: it ends before it starts, and it ends past $FFFF; and a machine with overlapping RAMs that runs. -/
theorem witness_ConfigurationDecidesRun :
    (configOk (e3 [] 0) = true ∧ (e3 [] 0).devices.count .cpu = 1 ∧ 1 ≤ (e3 [] 0).cfg.resetCycles ∧ (e3 [] 0).fault = none) ∧
    (deviceRange (.ram 0x0001 0x0000 []) = some (1, 0) ∧ (0 < 1 ∨ 0xFFFF < 0)) ∧
    (deviceRange (.timer 0xFFFD ⟨false, false, 0, 0⟩) = some (0xFFFD, 0x10000) ∧ (0x10000 < 0xFFFD ∨ 0xFFFF < 0x10000)) ∧
    ({ sample with devices := [.cpu, .cpu] } : State).devices.count .cpu ≠ 1 ∧
    ({ sample with cfg := { sample.cfg with resetCycles := 0 } } : State).cfg.resetCycles = 0 := by
  decide

theorem witness_BreakpointHook :
    let s := { sample with cfg := { sample.cfg with breakpoints := [0x600] }, io := { sample.io with answers := [0x00, 0x06, 0xEA] } }
    let u := { s with io := { s.io with answers := [0x01, 0x06, 0xEA] } }
    sample.pc ∉ sample.cfg.breakpoints ∧ s.pc ∈ s.cfg.breakpoints ∧ (hookAnswer (memRead s s.pc).2.io).1.1 = s.pc ∧
    u.pc ∈ u.cfg.breakpoints ∧ (hookAnswer (memRead u u.pc).2.io).1.1 ≠ u.pc ∧
    u.runState = .normal ∧ u.instrCycles = 0 ∧ eligible u = none ∧ s.runState = .normal ∧ s.instrCycles = 0 ∧ eligible s = none ∧
    isFaultSlot sample.cfg.variant 0x4C = false ∧ sample.cfg.brkIsStop = false := by
  decide

/-- Both outcomes of the opcode read at a fetch boundary. -/
theorem witness_BreakpointHook_outcomes :
    let s := { sample with cfg := { sample.cfg with breakpoints := [0x600] }, io := { sample.io with answers := [0x00, 0x06, 0xEA] } }
    let u := { s with io := { s.io with answers := [0x01, 0x06, 0xEA] } }
    (∃ t, fetchOpcode s.cfg.maxRedirects s = .opcode 0xEA t) ∧ (∃ t, fetchOpcode u.cfg.maxRedirects u = .redirectLimit 0xA9 t) :=
  ⟨⟨_, rfl⟩, ⟨_, rfl⟩⟩

theorem witness_BusReadFirstMatch :
    let before := [Device.ram 0x0000 0x0FFF []]
    (∀ e ∈ before, deviceContains e 0x1000 = false) ∧ deviceContains (.rom 0x1000 0x1000 []) 0x1000 = true ∧
    deviceContains (.rom 0x1000 0x1000 []) 0x1001 = false := by decide

theorem witness_BusWriteEveryMatch :
    let devices := [Device.ram 0x0000 0x0FFF [], .rom 0x0FFF 0x1FFF []]
    devices[0]? = some (.ram 0x0000 0x0FFF []) ∧ (0x0000 : Addr) ≤ 0x0FFF ∧ (0x0FFF : Addr) ≤ 0x0FFF ∧
    devices[1]? = some (.rom 0x0FFF 0x1FFF []) ∧ deviceContains (.rom 0x0FFF 0x1FFF []) 0x0FFE = false ∧
    (∀ e ∈ devices, deviceContains e 0x2000 = false) ∧
    [Device.other (some (0x2000, 0x2000)) []][0]? = some (.other (some (0x2000, 0x2000)) []) ∧ (0x2000 : Addr) ≤ 0x2000 := by decide

/-- Both ends of the interval registers' range, and a register beside each. -/
theorem witness_TimerRegisters :
    (1 ≤ 1 ∧ 1 ≤ 3 ∧ 0 ≤ 3 ∧ 0 ≠ 1) ∧ (1 ≤ 3 ∧ 3 ≤ 3 ∧ 2 ≤ 3 ∧ 2 ≠ 3) ∧
    (0xFFFF : Addr).toNat = (0xFFFC : Addr).toNat + 3 ∧ (0x0000 : Addr).toNat = (0x0000 : Addr).toNat + 0 := by decide

theorem witness_TimerPeriod :
    let t : Timer := ⟨true, false, 1, 0⟩
    (t.enable = true ∧ t.interval ≠ 0 ∧ t.counter = 0 ∧ 0 < t.interval.toNat) ∧
    ({ t with enable := false } : Timer).enable = false ∧ ({ t with interval := 0 } : Timer).interval = 0 ∧
    sample.fault = none ∧ sample.devices[1]? = some (.timer 0xD000 ⟨true, false, 100, 5⟩) ∧
    ({ t with counter := 0xFFFFFF } : Timer).enable = true ∧ t.interval.toNat ≤ (0xFFFFFF : BitVec 24).toNat ∧
    sample.devices[3]? = some (.rom 0xF000 0xFFFF []) := by decide

/-- The last place each device fits, and the first. -/
theorem witness_DisplayAndParallelWrites :
    (0xFFFE : Addr).toNat + 1 ≤ 0xFFFF ∧ (0xFFF5 : Addr).toNat + 10 ≤ 0xFFFF ∧ (0x0000 : Addr).toNat + 10 ≤ 0xFFFF := by decide

/-- Registers at both ends of the longest device, and both ends of the month's range. -/
theorem witness_HostAnsweredReads :
    (0xFFFF : Addr).toNat = (0xFFF5 : Addr).toNat + 10 ∧ (0x0000 : Addr).toNat = (0x0000 : Addr).toNat + 0 ∧
    (1 ≤ (0x01 : Byte).toNat ∧ (0x01 : Byte).toNat ≤ 12) ∧ (1 ≤ (0x0C : Byte).toNat ∧ (0x0C : Byte).toNat ≤ 12) ∧
    (HostIO.mk [] [0x0C] 0).answers = 0x0C :: [] := by decide

/-- A Bus write, a Bus read, and a move that is neither. -/
theorem witness_HostMoves :
    HostAction.busWrite 0x1234 0x56 ≠ .reset ∧ HostAction.busRead 0x1234 ≠ .reset ∧
    (∀ a v, HostAction.busRead 0x1234 ≠ .busWrite a v) ∧ HostAction.request .irq ≠ .reset ∧
    (∀ a, HostAction.request .irq ≠ .busRead a) ∧ ∀ a v, HostAction.request .irq ≠ .busWrite a v := by
  refine ⟨?_, ?_, fun a v => ?_, ?_, fun a => ?_, fun a v => ?_⟩ <;>
    · intro h
      cases h

theorem witness_MemoryIsCanonical :
    Memory.wf [(0x10, 0x01), (0xFFFF, 0xFF)] = true ∧ Memory.wf [] = true ∧ ((0x10 : Nat) ≠ 0x11) ∧
    ∀ k, Memory.read [(0x10, 0x01)] k = Memory.read [(0x10, 0x01)] k := by
  exact ⟨by decide, by decide, by decide, fun _ => rfl⟩

/-- For StackPushAndPull, SubroutineReturns, InterruptReturns, JumpInstructions and BreakInstruction: the stack in RAM, at the top
of its page and where it wraps. -/
theorem witness_stack_in_RAM :
    RamAt sample.devices (stackAddr 0xFF) ∧ RamAt sample.devices (stackAddr (0x00 - 1)) ∧ RamAt sample.devices (stackAddr (0x01 - 2)) :=
  ⟨sample_stack _, sample_stack _, sample_stack _⟩

theorem witness_PushInstructions :
    (Instr.pha = .pha ∧ sample.a = 0x00) ∧ (Instr.phx = .phx ∧ sample.x = 0x00) ∧ (Instr.phy = .phy ∧ sample.y = 0x00) ∧
    (Instr.php = .php ∧ (0x34 : Byte).toNat =
      128 * sample.p.n.toNat + 64 * sample.p.v.toNat + 48 + 8 * sample.p.d.toNat + 4 * sample.p.i.toNat +
        2 * sample.p.z.toNat + sample.p.c.toNat) := by decide

/-- For AddBinary and SubtractBinary, and for AddDecimal and SubtractDecimal with decimal operands at the ends of their range. -/
theorem witness_decimal_flag :
    sample.p.d = false ∧ ({ sample with p := { Status.reset with d := true } } : State).p.d = true ∧
    (0x99 : Byte).toNat / 16 ≤ 9 ∧ (0x99 : Byte).toNat % 16 ≤ 9 ∧ IsDecimal 0x99 ∧ IsDecimal 0x00 := by
  exact ⟨by decide, by decide, by decide, by decide, ⟨by decide, by decide⟩, ⟨by decide, by decide⟩⟩

/-- The eight bits a per-bit statement ranges over, at both ends. -/
theorem witness_bits (z d : Byte) :
    (rmb 0 z = .rmb0 z ∧ rmb 7 z = .rmb7 z ∧ smb 0 z = .smb0 z ∧ smb 7 z = .smb7 z) ∧
    (bbr 0 z d = .bbr0 z d ∧ bbr 7 z d = .bbr7 z d ∧ bbs 0 z d = .bbs0 z d ∧ bbs 7 z d = .bbs7 z d) := by
  and_intros <;> rfl

/-! The instructions a statement ranges over: every case of its hypothesis is met. -/

theorem witness_StoreInstructions (dst : Mem) :
    ∀ p ∈ ([(.sta dst, sample.a),
      (.stx dst, sample.x),
      (.sty dst, sample.y),
      (.stz dst, 0)] : List (Instr × Byte)),
      (p.1 = .sta dst ∧ p.2 = sample.a) ∨
      (p.1 = .stx dst ∧ p.2 = sample.x) ∨
      (p.1 = .sty dst ∧ p.2 = sample.y) ∨
      (p.1 = .stz dst ∧ p.2 = 0) := by
  simp

theorem witness_CompareInstructions (src : Src) :
    ∀ p ∈ ([(.cmp src, sample.a),
      (.cpx src, sample.x),
      (.cpy src, sample.y)] : List (Instr × Byte)),
      (p.1 = .cmp src ∧ p.2 = sample.a) ∨
      (p.1 = .cpx src ∧ p.2 = sample.x) ∨
      (p.1 = .cpy src ∧ p.2 = sample.y) := by
  simp

theorem witness_IncrementMemory (dst : Mem) :
    ∀ p ∈ ([(.inc dst, BitVec.ofNat 8 (0xFF + 1)),
      (.dec dst, BitVec.ofNat 8 (0x00 + 255))] : List (Instr × Byte)),
      (p.1 = .inc dst ∧ p.2 = BitVec.ofNat 8 (0xFF + 1)) ∨
      (p.1 = .dec dst ∧ p.2 = BitVec.ofNat 8 (0x00 + 255)) := by
  simp

theorem witness_LogicalInstructions (src : Src) :
    ∀ p ∈ ([(.and src, and),
      (.ora src, or),
      (.eor src, xor)] : List (Instr × (Bool → Bool → Bool))),
      (p.1 = .and src ∧ p.2 = and) ∨
      (p.1 = .ora src ∧ p.2 = or) ∨
      (p.1 = .eor src ∧ p.2 = xor) := by
  simp

theorem witness_ShiftInstructions :
    ∀ p ∈ ([(Instr.asl, fun v => (BitVec.ofNat 8 (2 * v.toNat), decide (128 ≤ v.toNat))),
      (Instr.lsr, fun v => (BitVec.ofNat 8 (v.toNat / 2), decide (v.toNat % 2 = 1))),
      (Instr.rol, fun v => (BitVec.ofNat 8 (2 * v.toNat + sample.p.c.toNat), decide (128 ≤ v.toNat))),
      (Instr.ror, fun v => (BitVec.ofNat 8 (v.toNat / 2 + 128 * sample.p.c.toNat), decide (v.toNat % 2 = 1)))] : List ((Rmw → Instr) × (Byte → Byte × Bool))),
      (p.1 = Instr.asl ∧ p.2 = fun v => (BitVec.ofNat 8 (2 * v.toNat), decide (128 ≤ v.toNat))) ∨
      (p.1 = Instr.lsr ∧ p.2 = fun v => (BitVec.ofNat 8 (v.toNat / 2), decide (v.toNat % 2 = 1))) ∨
      (p.1 = Instr.rol ∧ p.2 = fun v => (BitVec.ofNat 8 (2 * v.toNat + sample.p.c.toNat), decide (128 ≤ v.toNat))) ∨
      (p.1 = Instr.ror ∧ p.2 = fun v => (BitVec.ofNat 8 (v.toNat / 2 + 128 * sample.p.c.toNat), decide (v.toNat % 2 = 1))) := by
  simp

theorem witness_BitManipulation (dst : Mem) :
    ∀ p ∈ ([(.tsb dst, fun m a => m || a),
      (.trb dst, fun m a => m && !a)] : List (Instr × (Bool → Bool → Bool))),
      (p.1 = .tsb dst ∧ p.2 = fun m a => m || a) ∨
      (p.1 = .trb dst ∧ p.2 = fun m a => m && !a) := by
  simp

theorem witness_BitManipulation_bits (n : Fin 8) (z : Byte) :
    ∀ p ∈ ([(rmb n z, false),
      (smb n z, true)] : List (Instr × Bool)),
      (p.1 = rmb n z ∧ p.2 = false) ∨
      (p.1 = smb n z ∧ p.2 = true) := by
  simp

theorem witness_BranchInstructions (d : Byte) :
    ∀ p ∈ ([(.bpl d, !sample.p.n),
      (.bmi d, sample.p.n),
      (.bvc d, !sample.p.v),
      (.bvs d, sample.p.v),
      (.bcc d, !sample.p.c),
      (.bcs d, sample.p.c),
      (.bne d, !sample.p.z),
      (.beq d, sample.p.z),
      (.bra d, true)] : List (Instr × Bool)),
      (p.1 = .bpl d ∧ p.2 = !sample.p.n) ∨
      (p.1 = .bmi d ∧ p.2 = sample.p.n) ∨
      (p.1 = .bvc d ∧ p.2 = !sample.p.v) ∨
      (p.1 = .bvs d ∧ p.2 = sample.p.v) ∨
      (p.1 = .bcc d ∧ p.2 = !sample.p.c) ∨
      (p.1 = .bcs d ∧ p.2 = sample.p.c) ∨
      (p.1 = .bne d ∧ p.2 = !sample.p.z) ∨
      (p.1 = .beq d ∧ p.2 = sample.p.z) ∨
      (p.1 = .bra d ∧ p.2 = true) := by
  simp

theorem witness_BitBranchInstructions (n : Fin 8) (z d : Byte) :
    ∀ p ∈ ([(bbr n z d, false),
      (bbs n z d, true)] : List (Instr × Bool)),
      (p.1 = bbr n z d ∧ p.2 = false) ∨
      (p.1 = bbs n z d ∧ p.2 = true) := by
  simp

theorem witness_FlagAndWaitInstructions :
    ∀ p ∈ ([(.clc, { sample.p with c := false }),
      (.sec, { sample.p with c := true }),
      (.cli, { sample.p with i := false }),
      (.sei, { sample.p with i := true }),
      (.cld, { sample.p with d := false }),
      (.sed, { sample.p with d := true }),
      (.clv, { sample.p with v := false }),
      (.nop, sample.p)] : List (Instr × Status)),
      (p.1 = .clc ∧ p.2 = { sample.p with c := false }) ∨
      (p.1 = .sec ∧ p.2 = { sample.p with c := true }) ∨
      (p.1 = .cli ∧ p.2 = { sample.p with i := false }) ∨
      (p.1 = .sei ∧ p.2 = { sample.p with i := true }) ∨
      (p.1 = .cld ∧ p.2 = { sample.p with d := false }) ∨
      (p.1 = .sed ∧ p.2 = { sample.p with d := true }) ∨
      (p.1 = .clv ∧ p.2 = { sample.p with v := false }) ∨
      (p.1 = .nop ∧ p.2 = sample.p) := by
  simp

theorem witness_FlagAndWaitInstructions_wait :
    ∀ p ∈ ([(.wai, RunState.waiting),
      (.stp, RunState.stopped)] : List (Instr × RunState)),
      (p.1 = .wai ∧ p.2 = RunState.waiting) ∨
      (p.1 = .stp ∧ p.2 = RunState.stopped) := by
  simp

theorem witness_EveryInstructionCompletes :
    Instr.nop ≠ .wai ∧ Instr.nop ≠ .stp ∧ ∀ op, Instr.nop ≠ .jam op ∧ Instr.nop ≠ .notImplemented op := by
  refine ⟨by decide, by decide, fun op => ⟨?_, ?_⟩⟩ <;>
    · intro h
      cases h

theorem witness_OnlyListedInstructionsWrite :
    (∃ t, exec .nop sample = .next t) ∧ writesA .nop = false ∧ writesX .nop = false ∧ writesY .nop = false ∧
    writesSP .nop = false ∧ writesPC .nop = false ∧ writesC .nop = false ∧ writesZ .nop = false ∧ writesN .nop = false ∧
    writesV .nop = false ∧ writesD .nop = false ∧ writesI .nop = false ∧ writesB .nop = false ∧ writesMemory .nop = false :=
  ⟨⟨_, rfl⟩, rfl, rfl, rfl, rfl, rfl, rfl, rfl, rfl, rfl, rfl, rfl, rfl, rfl⟩

end Sys2Proof.Tests
end

section
/-!
When a state has a next state: a right configuration and no recorded fault (60_exceptions.md R319, R321, R325), since nothing the CPU or a
device does in its clock ends in a fault or a refusal (R130).
-/

namespace Sys2Proof.Machine

/-! ## The configuration -/

theorem validRange_iff (d : Device) :
    validRange d = true ↔ ∀ lo hi, deviceRange d = some (lo, hi) → lo ≤ hi ∧ hi ≤ 0xFFFF := by
  unfold validRange
  cases hd : deviceRange d with
  | none => simp
  | some r =>
    obtain ⟨lo, hi⟩ := r
    simp

theorem configOk_iff (s : State) :
    configOk s = true ↔
      (∀ d ∈ s.devices, validRange d = true) ∧ s.devices.count .cpu = 1 ∧ 1 ≤ s.cfg.resetCycles := by
  simp [configOk, and_assoc]

theorem step_of_not_configOk {s : State} (h : ¬ configOk s = true) : step s = .refused .configurationError :=
  if_neg h

theorem step_of_configOk {s : State} (h : configOk s = true) (hf : s.fault = none) :
    step s = clockDevices (List.range s.devices.length) { s with clockCalls := s.clockCalls + 1 } := by
  simp [step, clockCall, h, hf]

/-! ## Every clock completes -/

theorem exec_completes (i : Instr) (s : State) : ∃ t, exec i s = .next t :=
  let ⟨t, ht, _⟩ := exec_access i s
  ⟨t, ht⟩

theorem andThen_completes {r : Result} (f : State → State) (h : ∃ t, r = .next t) : ∃ t, andThen r f = .next t := by
  obtain ⟨t, rfl⟩ := h
  exact ⟨f t, rfl⟩

theorem dispatch_completes (op : Byte) (s : State) : ∃ t, dispatch op s = .next t := by
  unfold dispatch
  split
  case isTrue => exact exec_completes _ s
  case isFalse =>
    split
    case isTrue => exact ⟨_, rfl⟩
    case isFalse => exact andThen_completes endCycle (exec_completes _ _)

theorem fetchBoundary_completes (s : State) : ∃ t, fetchBoundary s = .next t := by
  unfold fetchBoundary
  cases eligible s with
  | some kind => exact ⟨_, rfl⟩
  | none =>
    cases fetchOpcode s.cfg.maxRedirects s with
    | opcode op u => exact dispatch_completes op u
    | redirectLimit op u => exact ⟨_, rfl⟩

theorem cpuClock_completes (s : State) : ∃ t, cpuClock s = .next t := by
  unfold cpuClock
  cases s.runState with
  | normal =>
    simp only [normalClock]
    split
    · exact fetchBoundary_completes s
    · exact ⟨_, rfl⟩
  | waiting => exact ⟨_, rfl⟩
  | stopped => exact ⟨_, rfl⟩

theorem clockDevice_completes (k : Nat) (s : State) : ∃ t, clockDevice k s = .next t := by
  unfold clockDevice
  split
  · exact cpuClock_completes s
  · exact ⟨_, rfl⟩
  · exact ⟨_, rfl⟩

theorem clockDevices_completes (places : List Nat) (s : State) : ∃ t, clockDevices places s = .next t := by
  induction places generalizing s with
  | nil => exact ⟨s, rfl⟩
  | cons k rest ih =>
    obtain ⟨u, hu⟩ := clockDevice_completes k s
    simp only [clockDevices, hu]
    split
    · exact ⟨u, rfl⟩
    · exact ih u

theorem step_completes {s : State} (h : configOk s = true) (hf : s.fault = none) : ∃ t, step s = .next t := by
  rw [step_of_configOk h hf]
  exact clockDevices_completes _ _

/-- Settles O22: the step refuses exactly where `configOk` fails, which each bad range, a wrong number of CPUs and a zero reset cost
make it do; where it holds and no fault is recorded, every clock of the call completes. -/
theorem configurationDecidesRun : Obligations.ConfigurationDecidesRun := by
  intro s
  refine ⟨fun d lo hi hd hr hbad => ?_, fun hcpu => ?_, fun hreset => ?_, fun hranges hcpu hreset hf => ?_⟩
  · refine step_of_not_configOk fun h => ?_
    obtain ⟨hvalid, -, -⟩ := (configOk_iff s).mp h
    have hbounds := (validRange_iff d).mp (hvalid d hd) lo hi hr
    omega
  · refine step_of_not_configOk fun h => ?_
    obtain ⟨-, hone, -⟩ := (configOk_iff s).mp h
    exact hcpu hone
  · refine step_of_not_configOk fun h => ?_
    obtain ⟨-, -, hcost⟩ := (configOk_iff s).mp h
    omega
  · have hvalid : ∀ d ∈ s.devices, validRange d = true :=
      fun d hd => (validRange_iff d).mpr fun lo hi hr => hranges d lo hi hd hr
    exact step_completes ((configOk_iff s).mpr ⟨hvalid, hcpu, hreset⟩) hf

end Sys2Proof.Machine
end

section
/-!
What an instruction leaves in the engine's fields (10_state.md R27, R29, R32).
-/

namespace Sys2Proof.Machine

open Sys2Proof.Claims

/-- A taken or refused branch writes PC only. -/
theorem branchIf_eq (cond : Bool) (d : Byte) (s : State) :
    branchIf cond d s = { s with pc := if cond then branchTarget d s else s.pc } := by
  cases cond <;> rfl

/-- No instruction touches the two counters; only WAI and STP write the run state, only the fault slots the fault record. -/
theorem exec_engine {i : Instr} {s t : State} (h : exec i s = .next t) :
    t.instrCycles = s.instrCycles ∧ t.totalCycles = s.totalCycles ∧
      (i ≠ .wai → i ≠ .stp → t.runState = s.runState) ∧
      ((∀ op, i ≠ .jam op ∧ i ≠ .notImplemented op) → t.fault = s.fault) := by
  cases i with
  | wai | stp => cases h; simp
  | jam op | notImplemented op =>
    cases h
    exact ⟨rfl, rfl, fun _ _ => rfl, fun hi => by simpa using hi op⟩
  | lda m | ldx m | ldy m | adc m | sbc m | cmp m | cpx m | cpy m | and m | ora m | eor m =>
    cases h
    simp [loadInto, arithmetic, compareRegister, logical]
  | bit m => cases h; simp
  | sta m | stx m | sty m | stz m | inc m | dec m | tsb m | trb m => cases h; simp
  | rmb0 z | rmb1 z | rmb2 z | rmb3 z | rmb4 z | rmb5 z | rmb6 z | rmb7 z => cases h; simp
  | smb0 z | smb1 z | smb2 z | smb3 z | smb4 z | smb5 z | smb6 z | smb7 z => cases h; simp
  | asl d | lsr d | rol d | ror d => cases h; cases d <;> simp [modifyRmw]
  | bpl d | bmi d | bvc d | bvs d | bcc d | bcs d | bne d | beq d => cases h; simp [branchIf_eq]
  | bbr0 z d | bbr1 z d | bbr2 z d | bbr3 z d | bbr4 z d | bbr5 z d | bbr6 z d | bbr7 z d =>
    cases h
    simp [branchOnBit, branchIf_eq]
  | bbs0 z d | bbs1 z d | bbs2 z d | bbs3 z d | bbs4 z d | bbs5 z d | bbs6 z d | bbs7 z d =>
    cases h
    simp [branchOnBit, branchIf_eq]
  | pla | plp | plx | ply | jmpIndirect a | rts | rti | jsr a | brk => cases h; simp [loadInto]
  | _ => cases h; simp [loadInto]

end Sys2Proof.Machine
end

section
/-!
What the descriptor tables build (30_encoding.md R98, R99).
-/

namespace Sys2Proof

/-- Is it a fault slot (R275, R276)? -/
def Instr.isFault : Instr → Bool
  | .jam _ | .notImplemented _ => true
  | _ => false

/-- Is it WAI or STP, which leave the Normal run state (R270, R271)? -/
def Instr.waits : Instr → Bool
  | .wai | .stp => true
  | _ => false

/-- The NMOS table holds no fault slot, and neither WAI nor STP. -/
theorem nmosTable_builds : ∀ d ∈ nmosTable, ∀ b1 b2,
    (d.shape.build b1 b2).isFault = false ∧ (d.shape.build b1 b2).waits = false := by
  unfold nmosTable nmosTable0 nmosTable4 nmosTable8 nmosTableC
  repeat refine List.forall_mem_cons.2 ⟨fun _ _ => ⟨rfl, rfl⟩, ?_⟩
  exact List.forall_mem_nil _

theorem cmosTable_builds : ∀ d ∈ cmosTable, ∀ b1 b2, (d.shape.build b1 b2).isFault = false := by
  unfold cmosTable cmosTable0 cmosTable8
  repeat refine List.forall_mem_cons.2 ⟨fun _ _ => rfl, ?_⟩
  exact List.forall_mem_nil _

end Sys2Proof
end

section
/-!
What a fetch boundary and the CPU's clock can do, said once (60_exceptions.md R300, R301, R310, R316, R317, R320, R340).
-/

namespace Sys2Proof.Machine

open Sys2Proof.Claims

/-- The instruction of a slot that is no fault slot raises nothing; under NMOS it does not wait either. -/
theorem assemble_builds {v : Variant} {op : Byte} (h : isFaultSlot v op = false) (b1 b2 : Byte) :
    (assemble v op b1 b2).isFault = false ∧ (v = .nmos → (assemble v op b1 b2).waits = false) := by
  obtain ⟨d, hd⟩ : ∃ d, lookup v op = some d := by
    cases hl : lookup v op with
    | none => simp [isFaultSlot, hl] at h
    | some d => exact ⟨d, rfl⟩
  have hm : d ∈ descriptorTable v := List.mem_of_find?_eq_some hd
  simp only [assemble, hd]
  cases v with
  | nmos => exact ⟨(nmosTable_builds d hm b1 b2).1, fun _ => (nmosTable_builds d hm b1 b2).2⟩
  | cmos =>
    refine ⟨?_, fun hv => nomatch hv⟩
    rcases List.mem_append.1 hm with hm | hm
    · exact (nmosTable_builds d hm b1 b2).1
    · exact cmosTable_builds d hm b1 b2

/-! ## The fetch boundary -/

theorem sameEngine_refl (s : State) : SameEngine s s := ⟨rfl, rfl, rfl, rfl, rfl, rfl⟩

theorem sameEngine_trans {s t u : State} (h1 : SameEngine s t) (h2 : SameEngine t u) : SameEngine s u := by
  simp only [SameEngine] at *
  simp only [h2, h1, and_self]

/-- The state in which an opcode read ends. -/
def Fetched.state : Fetched → State
  | .opcode _ s | .redirectLimit _ s => s

/-- A host draw alone is no access. -/
theorem Access.draws {s : State} {io : HostIO} (h : io.events = s.io.events) : Access s { s with io := io } :=
  ⟨⟨rfl, rfl, .refl _, .of_eq h⟩, latchFrom_refl _ _ _, latchFrom_refl _ _ _⟩

@[simp] theorem hookAnswer_events (io : HostIO) : (hookAnswer io).2.events = io.events := by
  simp [hookAnswer]

/-- Reading the opcode, with its redirects, is Bus reads and host draws. -/
theorem fetchOpcode_spec (left : Nat) (s : State) :
    Access s (fetchOpcode left s).state ∧ SameEngine s (fetchOpcode left s).state := by
  have answered : ∀ (s : State) (pc : Addr),
      Access s { (memRead s s.pc).2 with io := (hookAnswer (memRead s s.pc).2.io).2, pc := pc } := fun s _ =>
    ((Access.memRead s s.pc).trans (.draws (hookAnswer_events _))).of_eq rfl rfl ⟨rfl, rfl, rfl, rfl⟩
  induction left generalizing s with
  | zero =>
    unfold fetchOpcode
    dsimp only
    split
    · split <;> exact ⟨answered s s.pc, sameEngine_refl s⟩
    · exact ⟨.memRead s s.pc, sameEngine_refl s⟩
  | succ left ih =>
    unfold fetchOpcode
    dsimp only
    split
    · split
      · exact ⟨answered s s.pc, sameEngine_refl s⟩
      · obtain ⟨hacc, heng⟩ := ih
          { (memRead s s.pc).2 with
            io := (hookAnswer (memRead s s.pc).2.io).2, pc := (hookAnswer (memRead s s.pc).2.io).1.1 }
        exact ⟨(answered s _).trans hacc, heng⟩
    · exact ⟨.memRead s s.pc, sameEngine_refl s⟩

/-- Reading the operand bytes is Bus reads. -/
theorem fetchOperands_spec (count : Nat) (s : State) :
    Access s (fetchOperands count s).2 ∧ SameEngine s (fetchOperands count s).2 := by
  unfold fetchOperands
  split
  · exact ⟨.refl s, sameEngine_refl s⟩
  · exact ⟨.fetch s, sameEngine_refl s⟩
  · exact ⟨(Access.fetch s).trans (.fetch _), sameEngine_refl s⟩

/-- A fetch boundary that raised a fault, which ends the call there (R320). -/
def Raised (s t : State) : Prop :=
  t.fault ≠ none ∧ t.instrCycles = s.instrCycles ∧ t.totalCycles = s.totalCycles ∧ t.runState = s.runState

/-- A fetch boundary that ran an instruction: one cycle passed, no fault is recorded, and NMOS does not leave the Normal run state
(R27). -/
def RanInstruction (s t : State) : Prop :=
  t.fault = s.fault ∧ t.totalCycles = s.totalCycles + 1 ∧ (s.cfg.variant = .nmos → t.runState = s.runState)

theorem Raised.raise (f : Fault) (s : State) : Raised s (raise f s) := ⟨nofun, rfl, rfl, rfl⟩

theorem exec_faultSlot (v : Variant) (op : Byte) (s : State) : ∃ f, exec (faultSlot v op) s = .next (raise f s) := by
  unfold faultSlot
  split <;> exact ⟨_, rfl⟩

theorem exec_ranInstruction {i : Instr} {s t : State} (hi : i.isFault = false) (hw : s.cfg.variant = .nmos → i.waits = false)
    (h : exec i s = .next t) : RanInstruction s (endCycle t) := by
  obtain ⟨-, htotal, hrun, hfault⟩ := exec_engine h
  refine ⟨hfault fun op => ⟨?_, ?_⟩, congrArg (· + 1) htotal, fun hv => hrun ?_ ?_⟩
  · rintro rfl; simp [Instr.isFault] at hi
  · rintro rfl; simp [Instr.isFault] at hi
  · rintro rfl; simp [Instr.waits] at hw; exact hw hv
  · rintro rfl; simp [Instr.waits] at hw; exact hw hv

/-- From the opcode on, a fetch boundary raises a fault or runs an instruction, and reaches the rest by Bus accesses. -/
theorem dispatch_cases {op : Byte} {s t : State} (h : dispatch op s = .next t) :
    Access s t ∧ (Raised s t ∨ RanInstruction s t) := by
  unfold dispatch at h
  split at h
  case isTrue =>
    obtain ⟨f, hf⟩ := exec_faultSlot s.cfg.variant op s
    obtain rfl := Host.Outcome.next.inj (hf.symm.trans h)
    exact ⟨(Access.refl s).of_eq rfl rfl ⟨rfl, rfl, rfl, rfl⟩, .inl (.raise f s)⟩
  case isFalse hslot =>
    split at h
    case isTrue =>
      cases h
      exact ⟨(Access.refl s).of_eq rfl rfl ⟨rfl, rfl, rfl, rfl⟩, .inl (.raise _ s)⟩
    case isFalse =>
      dsimp only at h
      obtain ⟨hread, heng⟩ := fetchOperands_spec (operandCount s.cfg.variant op) (charge op s)
      revert h hread heng
      generalize fetchOperands (operandCount s.cfg.variant op) (charge op s) = o
      intro h hread heng
      obtain ⟨hcfg, -, htotal, hrun, hfault, -⟩ := heng
      obtain ⟨hplain, hwaits⟩ := assemble_builds (by simpa using hslot) o.1.1 o.1.2
      obtain ⟨w, hw, hacc⟩ := exec_access (assemble s.cfg.variant op o.1.1 o.1.2) o.2
      rw [hw] at h
      obtain rfl := Host.Outcome.next.inj h
      obtain ⟨h1, h2, h3⟩ := exec_ranInstruction hplain (by rw [hcfg]; exact hwaits) hw
      refine ⟨?_, .inr ⟨h1.trans hfault, h2.trans (by rw [htotal]; rfl), fun hv => (h3 (by rw [hcfg]; exact hv)).trans hrun⟩⟩
      have charged : Access s (charge op s) := (Access.refl s).of_eq rfl rfl ⟨rfl, rfl, rfl, rfl⟩
      exact (charged.trans (hread.trans hacc)).of_eq rfl rfl ⟨rfl, rfl, rfl, rfl⟩

/-! ## The CPU's clock -/

/-- All that the CPU's clock can do, by run state. -/
inductive CpuClocked (s t : State) : Prop
  /-- a time-passing cycle, R301 step 1 -/
  | passed (hrun : s.runState = .normal) (hcycles : 0 < s.instrCycles) (ht : t = endCycle s)
  /-- an eligible interrupt is serviced, R310 -/
  | serviced (kind : InterruptKind) (hrun : s.runState = .normal) (hcycles : s.instrCycles = 0)
      (hkind : eligible s = some kind) (ht : t = endCycle (serviceInterrupt kind s))
  /-- a fault is raised, R320 -/
  | raised (hrun : s.runState = .normal) (hcycles : s.instrCycles = 0) (hacc : Access s t) (ht : Raised s t)
  /-- an instruction is run, R301 step 2 -/
  | ran (hrun : s.runState = .normal) (hacc : Access s t) (ht : RanInstruction s t)
  /-- the Waiting clock, R316 -/
  | waited (hrun : s.runState = .waiting) (ht : t = waitingClock s)
  /-- the Stopped clock, R317 -/
  | stopped (hrun : s.runState = .stopped) (ht : t = stoppedClock s)

theorem fetchBoundary_cases {s t : State} (h : fetchBoundary s = .next t) :
    (∃ kind, eligible s = some kind ∧ t = endCycle (serviceInterrupt kind s)) ∨
      Access s t ∧ (Raised s t ∨ RanInstruction s t) := by
  unfold fetchBoundary at h
  cases hk : eligible s with
  | some kind =>
    rw [hk] at h
    cases h
    exact .inl ⟨kind, rfl, rfl⟩
  | none =>
    rw [hk] at h
    right
    obtain ⟨hread, heng⟩ := fetchOpcode_spec s.cfg.maxRedirects s
    cases hf : fetchOpcode s.cfg.maxRedirects s with
    | opcode op u =>
      rw [hf] at h hread heng
      obtain ⟨hcfg, hcycles, htotal, hrun, hfault, -⟩ := heng
      obtain ⟨hacc, hend⟩ := dispatch_cases h
      refine ⟨Access.trans hread hacc, hend.imp ?_ ?_⟩
      · rintro ⟨h1, h2, h3, h4⟩
        exact ⟨h1, h2.trans hcycles, h3.trans htotal, h4.trans hrun⟩
      · rintro ⟨h1, h2, h3⟩
        exact ⟨h1.trans hfault, h2.trans (congrArg (· + 1) htotal), fun hv => (h3 (by rw [← hv, ← hcfg]; rfl)).trans hrun⟩
    | redirectLimit op u =>
      rw [hf] at h hread heng
      cases h
      obtain ⟨-, hcycles, htotal, hrun, -, -⟩ := heng
      exact ⟨hread.of_eq rfl rfl ⟨rfl, rfl, rfl, rfl⟩, .inl ⟨nofun, hcycles, htotal, hrun⟩⟩

theorem cpuClock_cases {s t : State} (h : cpuClock s = .next t) : CpuClocked s t := by
  unfold cpuClock at h
  cases hrun : s.runState with
  | normal =>
    simp only [hrun, normalClock] at h
    split at h
    case isTrue hcycles =>
      obtain ⟨kind, hkind, ht⟩ | ⟨hacc, ht | ht⟩ := fetchBoundary_cases h
      · exact .serviced kind hrun hcycles hkind ht
      · exact .raised hrun hcycles hacc ht
      · exact .ran hrun hacc ht
    case isFalse hcycles =>
      cases h
      exact .passed hrun (Nat.pos_of_ne_zero hcycles) rfl
  | waiting =>
    simp only [hrun] at h
    cases h
    exact .waited hrun rfl
  | stopped =>
    simp only [hrun] at h
    cases h
    exact .stopped hrun rfl

end Sys2Proof.Machine
end

section
/-!
The parts of a step: what the CPU's clock leaves in the latches (60_exceptions.md R305, R311, R316, R317), what the clocks of the other
devices leave, and the step made of them (20_memory.md R57).
-/

namespace Sys2Proof.Machine

open Sys2Proof.Claims

theorem requested_iff (s : State) : requested s = true ↔ s.nmiPending ≠ none ∨ s.irqPending ≠ none := by
  simp [requested, Option.isSome_iff_ne_none]

theorem stoppedClock_of_not_requested {s : State} (h : ¬ requested s = true) : stoppedClock s = s := if_neg h

theorem stoppedClock_effect (s : State) : Effect s (stoppedClock s) := by
  unfold stoppedClock
  split
  · exact (Access.readWord s s.cfg.resetVec).toEffect.of_eq rfl rfl rfl rfl
  · exact .refl s

/-- Whatever the CPU's clock does, it reaches the rest of the machine by Bus accesses. -/
theorem CpuClocked.effect {s t : State} (h : CpuClocked s t) : Effect s t := by
  cases h with
  | passed _ _ ht => rw [ht]; exact (Effect.refl s).of_eq rfl rfl rfl rfl
  | serviced kind _ _ _ ht => rw [ht]; exact (Effect.serviceInterrupt kind s).of_eq rfl rfl rfl rfl
  | raised _ _ hacc _ => exact hacc.toEffect
  | ran _ hacc _ => exact hacc.toEffect
  | waited _ ht =>
    rw [ht]
    unfold waitingClock
    split <;> exact (Effect.refl s).of_eq rfl rfl rfl rfl
  | stopped _ ht => rw [ht]; exact stoppedClock_effect s

/-- A serviced interrupt leaves the other latch to its Bus accesses. -/
theorem serviceInterrupt_latches (kind : InterruptKind) (s : State) :
    let t := serviceInterrupt kind s
    (kind = .nmi → t.nmiPending = none) ∧ (kind = .irq → t.irqPending = none) ∧
      (kind ≠ .nmi → LatchFrom s.devices t.devices s.nmiPending t.nmiPending) ∧
      (kind ≠ .irq → LatchFrom s.devices t.devices s.irqPending t.irqPending) := by
  have entered := Access.enterException false (vectorOf s.cfg kind) s
  cases kind with
  | nmi => exact ⟨fun _ => rfl, nofun, fun h => absurd rfl h, fun _ => entered.irq⟩
  | irq => exact ⟨nofun, fun _ => rfl, fun _ => entered.nmi, fun h => absurd rfl h⟩

/-- Settles O16: by the cases of the CPU's clock; all but the service and the Stopped wake leave the latches to Bus accesses. -/
theorem latchesAreKept : Obligations.LatchesAreKept := by
  intro s t h woken
  cases cpuClock_cases h with
  | passed _ _ ht => subst ht; exact ⟨.inl (.inl rfl), .inl (.inl rfl)⟩
  | raised _ _ hacc _ => exact ⟨.inl hacc.nmi, .inl hacc.irq⟩
  | ran _ hacc _ => exact ⟨.inl hacc.nmi, .inl hacc.irq⟩
  | serviced kind hrun hcycles hkind ht =>
    subst ht
    obtain ⟨hnmi, hirq, keepNmi, keepIrq⟩ := serviceInterrupt_latches kind s
    cases kind with
    | nmi => exact ⟨.inr (.inr ⟨hrun, hcycles, hkind, hnmi rfl⟩), .inl (keepIrq nofun)⟩
    | irq => exact ⟨.inl (keepNmi nofun), .inr (.inr ⟨hrun, hcycles, hkind, hirq rfl⟩)⟩
  | waited _ ht =>
    subst ht
    unfold waitingClock
    split <;> exact ⟨.inl (.inl rfl), .inl (.inl rfl)⟩
  | stopped hrun ht =>
    subst ht
    by_cases hr : requested s = true
    · have hw : woken := by
        simp only [woken, stoppedClock, if_pos hr]
        exact ⟨hrun, (requested_iff s).1 hr, trivial, trivial, trivial⟩
      exact ⟨.inr (.inl hw), .inr (.inl hw)⟩
    · rw [stoppedClock_of_not_requested hr]
      exact ⟨.inl (.inl rfl), .inl (.inl rfl)⟩

/-! ## The devices' clocks -/

/-- A latch as before, or with the handle of a registered device. -/
def LatchedBy (s : State) (old new : Option Handle) : Prop :=
  new = old ∨ ∃ j, j < s.devices.length ∧ new = some (.device j)

/-- What the clocks of devices other than the CPU do: the engine's fields stay (R57). -/
structure Passive (s t : State) : Prop extends Effect s t where
  engine : SameEngine s t
  nmi : LatchedBy s s.nmiPending t.nmiPending
  irq : LatchedBy s s.irqPending t.irqPending

theorem LatchedBy.trans {s t : State} {a b c : Option Handle} (hl : t.devices.length = s.devices.length)
    (h1 : LatchedBy s a b) (h2 : LatchedBy t b c) : LatchedBy s a c := by
  rcases h2 with rfl | ⟨j, hj, rfl⟩
  · exact h1
  · exact .inr ⟨j, hl ▸ hj, rfl⟩

theorem Passive.refl (s : State) : Passive s s := ⟨.refl s, sameEngine_refl s, .inl rfl, .inl rfl⟩

theorem Passive.trans {s t u : State} (h1 : Passive s t) (h2 : Passive t u) : Passive s u :=
  ⟨h1.toEffect.trans h2.toEffect, sameEngine_trans h1.engine h2.engine, h1.nmi.trans h1.devices.1 h2.nmi,
    h1.irq.trans h1.devices.1 h2.irq⟩

theorem Passive.fault {s t : State} (h : Passive s t) : t.fault = s.fault := h.engine.2.2.2.2.1

theorem Passive.clockOther {k : Nat} {d : Device} {s : State} (h : s.devices[k]? = some d) : Passive s (clockOther k d s) :=
  have ⟨heffect, _, hengine, hnmi, hirq⟩ := clockOther_spec k d s h
  ⟨heffect, hengine, hnmi, hirq⟩

/-- The CPU keeps its place, and no other device takes its kind. -/
theorem SameDevice.cpu_iff {d e : Device} (h : SameDevice d e) : e = .cpu ↔ d = .cpu := by
  cases d <;> cases e <;> simp_all [SameDevice]

theorem DevicesKept.cpu_iff {ds es : List Device} (h : DevicesKept ds es) (k : Nat) :
    es[k]? = some .cpu ↔ ds[k]? = some .cpu := by
  by_cases hk : k < ds.length
  · obtain ⟨e, he, hs, -⟩ := h.2 k ds[k] (List.getElem?_eq_getElem hk)
    rw [he, List.getElem?_eq_getElem hk, Option.some_inj, Option.some_inj, SameDevice.cpu_iff hs]
  · have hk' : ¬ k < es.length := by rwa [h.1]
    simp [hk, hk']

theorem clockDevice_of_other {k : Nat} {d : Device} {s : State} (h : s.devices[k]? = some d) (hd : d ≠ .cpu) :
    clockDevice k s = .next (clockOther k d s) := by
  unfold clockDevice
  split
  case h_1 h' => exact absurd (Option.some.inj (h.symm.trans h')) hd
  case h_2 e _ h' => rw [Option.some.inj (h.symm.trans h')]
  case h_3 h' => rw [h] at h'; cases h'

theorem clockDevice_passive {k : Nat} {s : State} (hk : s.devices[k]? ≠ some .cpu) :
    ∃ t, clockDevice k s = .next t ∧ Passive s t := by
  cases hd : s.devices[k]? with
  | none => exact ⟨s, by simp [clockDevice, hd], .refl s⟩
  | some d =>
    have hcpu : d ≠ .cpu := fun e => hk (e ▸ hd)
    exact ⟨_, clockDevice_of_other hd hcpu, .clockOther hd⟩

/-- The places of other devices are clocked one by one, and the call goes on after them. -/
theorem clockDevices_passive {places : List Nat} {s : State} (hf : s.fault = none)
    (hp : ∀ k ∈ places, s.devices[k]? ≠ some .cpu) (rest : List Nat) :
    ∃ t, Passive s t ∧ clockDevices (places ++ rest) s = clockDevices rest t := by
  induction places generalizing s with
  | nil => exact ⟨s, .refl s, rfl⟩
  | cons k places ih =>
    obtain ⟨u, hu, hsu⟩ := clockDevice_passive (hp k List.mem_cons_self)
    have hfu : u.fault = none := hsu.fault.trans hf
    obtain ⟨t, hut, ht⟩ := ih hfu fun j hj => by
      rw [Ne, hsu.devices.cpu_iff]
      exact hp j (List.mem_cons_of_mem _ hj)
    refine ⟨t, hsu.trans hut, ?_⟩
    simpa [clockDevices, hu, hfu] using ht

/-! ## The step -/

/-- The CPU has one place. -/
theorem cpu_unique {ds : List Device} (h : ds.count .cpu = 1) {j k : Nat} (hj : ds[j]? = some .cpu) (hk : ds[k]? = some .cpu) :
    j = k := by
  have no_two : ∀ {j k : Nat}, ds[j]? = some .cpu → ds[k]? = some .cpu → ¬ j < k := fun {j k} hj hk hlt => by
    obtain ⟨hj, ej⟩ := List.getElem?_eq_some_iff.1 hj
    obtain ⟨hk, ek⟩ := List.getElem?_eq_some_iff.1 hk
    have twice : List.Duplicate .cpu ds := List.duplicate_iff_exists_distinct_get.2 ⟨⟨j, hj⟩, ⟨k, hk⟩, hlt, ej.symm, ek.symm⟩
    have := List.duplicate_iff_two_le_count.1 twice
    omega
  have := no_two hj hk
  have := no_two hk hj
  omega

/-- The places of a right configuration: other devices', the CPU's, other devices'. -/
theorem exists_places {s : State} (h : configOk s = true) :
    let c := s.devices.idxOf .cpu
    s.devices[c]? = some .cpu ∧ (∀ k ∈ List.range c, s.devices[k]? ≠ some .cpu) ∧
      ∃ rest, List.range s.devices.length = List.range c ++ c :: rest ∧ ∀ k ∈ rest, s.devices[k]? ≠ some .cpu := by
  intro c
  obtain ⟨-, hone, -⟩ := (configOk_iff s).1 h
  have hc : c < s.devices.length := List.idxOf_lt_length_of_mem (List.count_pos_iff.1 (by omega))
  have hcpu : s.devices[c]? = some .cpu := by rw [List.getElem?_eq_getElem hc, List.getElem_idxOf]
  refine ⟨hcpu, fun k hk he => ?_, List.range' (c + 1) (s.devices.length - c - 1), ?_, fun k hk he => ?_⟩
  · have := cpu_unique hone he hcpu
    have := List.mem_range.1 hk
    omega
  · have e : s.devices.length = c + (s.devices.length - c - 1 + 1) := by omega
    calc List.range s.devices.length = List.range (c + (s.devices.length - c - 1 + 1)) := congrArg List.range e
      _ = List.range c ++ c :: List.range' (c + 1) (s.devices.length - c - 1) := by
        rw [List.range_eq_range', List.range_eq_range', ← List.range'_append_1, Nat.zero_add, List.range'_succ]
  · have := cpu_unique hone he hcpu
    have := List.mem_range'_1.1 hk
    omega

/-- All that a step does: the devices before the CPU are clocked, then the CPU, then the devices after it; where the CPU raises a
fault there is nothing after it (R57, R320). -/
theorem step_cases {s t : State} (h : step s = .next t) :
    configOk s = true ∧ s.fault = none ∧
      ∃ u v, Passive { s with clockCalls := s.clockCalls + 1 } u ∧ CpuClocked u v ∧ Passive v t := by
  have hok : configOk s = true := by
    by_contra hok
    rw [step_of_not_configOk hok] at h
    cases h
  have hf : s.fault = none := by
    by_contra hf
    obtain ⟨f, hf⟩ := Option.ne_none_iff_exists'.1 hf
    simp [step, clockCall, hok, hf] at h
  refine ⟨hok, hf, ?_⟩
  obtain ⟨hcpu, hbefore, rest, hplaces, hafter⟩ := exists_places hok
  rw [step_of_configOk hok hf, hplaces] at h
  obtain ⟨u, hu, e⟩ := clockDevices_passive (s := { s with clockCalls := s.clockCalls + 1 }) hf hbefore _
  rw [e] at h
  obtain ⟨v, hv⟩ := cpuClock_completes u
  have hclock := cpuClock_cases hv
  have huc : clockDevice (s.devices.idxOf .cpu) u = .next v := by
    simp only [clockDevice, (hu.devices.cpu_iff _).2 hcpu, hv]
  simp only [clockDevices, huc] at h
  refine ⟨u, v, hu, hclock, ?_⟩
  split at h
  case isTrue => cases h; exact .refl _
  case isFalse hfv =>
    obtain ⟨w, hw, e⟩ := clockDevices_passive (s := v) (by simpa using hfv) (places := rest) (fun k hk => by
      rw [Ne, hclock.effect.devices.cpu_iff, hu.devices.cpu_iff]
      exact hafter k hk) []
    rw [List.append_nil] at e
    rw [e] at h
    cases h
    exact hw

end Sys2Proof.Machine
end

section
/-!
What every step keeps: the configuration, the counters and the history, the invariant (10_state.md R30, R41, 60_exceptions.md R346, R351),
which a move of the host and a reset keep too (R341, R370).
-/

namespace Sys2Proof.Machine

open Sys2Proof.Claims

/-- A step is one counted call that reaches the devices and the host by clocks and Bus accesses. -/
theorem step_effect {s t : State} (h : step s = .next t) : Effect { s with clockCalls := s.clockCalls + 1 } t :=
  have ⟨_, _, _, _, hu, hclock, hv⟩ := step_cases h
  (hu.toEffect.trans hclock.effect).trans hv.toEffect

/-! ## Configuration -/

theorem SameDevice.deviceRange {d e : Device} (h : SameDevice d e) : deviceRange e = deviceRange d := by
  cases d <;> cases e <;> simp_all [SameDevice, Machine.deviceRange]

theorem DevicesKept.forall₂ {ds es : List Device} (h : DevicesKept ds es) : List.Forall₂ SameDevice ds es := by
  refine List.forall₂_iff_get.2 ⟨h.1.symm, fun k hd he => ?_⟩
  obtain ⟨e, he', hs, -⟩ := h.2 k ds[k] (List.getElem?_eq_getElem hd)
  rw [List.getElem?_eq_getElem he] at he'
  cases he'
  exact hs

/-- Calls on the devices keep their ranges valid and their number of CPUs. -/
theorem configOk_of_kept {s t : State} (hc : t.cfg = s.cfg) (hd : DevicesKept s.devices t.devices) :
    configOk t = configOk s := by
  have kept : t.devices.all validRange = s.devices.all validRange ∧ t.devices.count .cpu = s.devices.count .cpu := by
    have h := hd.forall₂
    revert h
    generalize s.devices = ds
    generalize t.devices = es
    intro h
    induction h with
    | nil => exact ⟨rfl, rfl⟩
    | @cons d e ds es hde _ ih =>
      simp only [List.all_cons, List.count_cons, beq_iff_eq, ih, validRange, SameDevice.deviceRange hde,
        SameDevice.cpu_iff hde, and_self]
  simp only [configOk, hc, kept]

/-- Settles O10: a step reaches the devices only by calls on them, and no such call changes a kind, a range or a ROM. -/
theorem stepKeepsConfiguration : Obligations.StepKeepsConfiguration := by
  intro s t h
  obtain ⟨hok, -⟩ := step_cases h
  obtain ⟨hcfg, -, hdevices, -⟩ := step_effect h
  refine ⟨hcfg, (configOk_of_kept hcfg hdevices).trans hok, hdevices.1, fun k d hd => ?_⟩
  obtain ⟨e, he, hs, -⟩ := hdevices.2 k d hd
  exact ⟨e, he, hs⟩

/-! ## Counters -/

@[simp] theorem waitingClock_totalCycles (s : State) : (waitingClock s).totalCycles = s.totalCycles := by
  unfold waitingClock
  split <;> rfl

@[simp] theorem stoppedClock_totalCycles (s : State) : (stoppedClock s).totalCycles = s.totalCycles := by
  unfold stoppedClock
  split <;> rfl

/-- The CPU's clock passes one cycle in the Normal state, unless it raises a fault (R30). -/
theorem CpuClocked.totalCycles {s t : State} (h : CpuClocked s t) (hf : s.fault = none) :
    t.totalCycles = s.totalCycles + (if s.runState = .normal ∧ t.fault = none then 1 else 0) := by
  cases h with
  | passed hrun _ ht => subst ht; simp [hrun, hf]
  | serviced kind hrun _ _ ht => subst ht; simp [serviceInterrupt, hrun, hf]
  | raised _ _ _ ht =>
    obtain ⟨hraised, -, htotal, -⟩ := ht
    simp [htotal, hraised]
  | ran hrun _ ht =>
    obtain ⟨hfault, htotal, -⟩ := ht
    simp [htotal, hfault, hrun, hf]
  | waited hrun ht => subst ht; simp [hrun]
  | stopped hrun ht => subst ht; simp [hrun]

/-- Settles O11: the devices' clocks leave the counters, and the CPU's passes its cycle. -/
theorem stepCountsCyclesAndEvents : Obligations.StepCountsCyclesAndEvents := by
  intro s t h
  obtain ⟨-, hf, u, v, hu, hclock, hv⟩ := step_cases h
  obtain ⟨-, -, htotal, hrun, hfault, -⟩ := hu.engine
  obtain ⟨-, -, htotal', -, hfault', -⟩ := hv.engine
  refine ⟨(step_effect h).clockCalls, ?_, (step_effect h).events⟩
  rw [htotal', hclock.totalCycles (hfault.trans hf), htotal, hrun, hfault']

/-! ## The invariant -/

theorem HandleOk.of_length {s t : State} {latch : Option Handle} (hl : t.devices.length = s.devices.length)
    (h : HandleOk s latch) : HandleOk t latch := by
  rcases latch with _ | ⟨k | _⟩ <;> simp_all [HandleOk]

theorem HandleOk.of_latchFrom {s : State} {es : List Device} {old new : Option Handle} (h : HandleOk s old)
    (hl : LatchFrom s.devices es old new) : HandleOk s new := by
  rcases hl with rfl | ⟨k, range, calls, more, hk, -, -, rfl⟩
  · exact h
  · exact (List.getElem?_eq_some_iff.1 hk).1

theorem HandleOk.of_latchedBy {s : State} {old new : Option Handle} (h : HandleOk s old) (hl : LatchedBy s old new) :
    HandleOk s new := by
  rcases hl with rfl | ⟨j, hj, rfl⟩
  · exact h
  · exact hj

/-- What is left to show of a state that calls on devices lead to: the run state, the fault and the latches. -/
theorem Inv.of_effect {s t : State} (hs : Inv s) (he : Effect s t) (hrun : s.cfg.variant = .nmos → t.runState = .normal)
    (hfault : t.fault.isSome → t.instrCycles = 0 ∧ t.runState = .normal) (hn : HandleOk s t.nmiPending)
    (hi : HandleOk s t.irqPending) : Inv t where
  memory e hmem := by
    obtain ⟨k, hk, rfl⟩ := List.getElem_of_mem hmem
    have hk' : k < s.devices.length := he.devices.1 ▸ hk
    obtain ⟨e, hke, -, hm⟩ := he.devices.2 k s.devices[k] (List.getElem?_eq_getElem hk')
    rw [List.getElem?_eq_getElem hk] at hke
    cases hke
    exact hm (hs.memory _ (List.getElem_mem hk'))
  nmosNormal hv := hrun (he.cfg ▸ hv)
  faultAtBoundary := hfault
  nmiHandle := HandleOk.of_length he.devices.1 hn
  irqHandle := HandleOk.of_length he.devices.1 hi

/-- A state that Bus accesses lead to, with the engine's fields kept. -/
theorem Inv.of_access {s t : State} (hs : Inv s) (ha : Access s t) (he : SameEngine s t) : Inv t := by
  obtain ⟨-, hcycles, -, hrun, hfault, -⟩ := he
  refine Inv.of_effect hs ha.toEffect ?_ ?_ (HandleOk.of_latchFrom hs.nmiHandle ha.nmi)
    (HandleOk.of_latchFrom hs.irqHandle ha.irq)
  · rw [hrun]; exact hs.nmosNormal
  · rw [hrun, hfault, hcycles]; exact hs.faultAtBoundary

theorem Passive.inv {s t : State} (h : Passive s t) (hs : Inv s) : Inv t := by
  obtain ⟨-, hcycles, -, hrun, hfault, -⟩ := h.engine
  refine Inv.of_effect hs h.toEffect ?_ ?_ (HandleOk.of_latchedBy hs.nmiHandle h.nmi) (HandleOk.of_latchedBy hs.irqHandle h.irq)
  · rw [hrun]; exact hs.nmosNormal
  · rw [hrun, hfault, hcycles]; exact hs.faultAtBoundary

@[simp] theorem waitingClock_fault (s : State) : (waitingClock s).fault = s.fault := by
  unfold waitingClock
  split <;> rfl

theorem waitingClock_latches (s : State) :
    (waitingClock s).nmiPending = s.nmiPending ∧ (waitingClock s).irqPending = s.irqPending := by
  unfold waitingClock
  split <;> exact ⟨rfl, rfl⟩

@[simp] theorem stoppedClock_fault (s : State) : (stoppedClock s).fault = s.fault := by
  unfold stoppedClock
  split <;> rfl

/-- The Stopped wake consumes both latches (R317). -/
theorem stoppedClock_latches (s : State) :
    ((stoppedClock s).nmiPending = s.nmiPending ∨ (stoppedClock s).nmiPending = none) ∧
      ((stoppedClock s).irqPending = s.irqPending ∨ (stoppedClock s).irqPending = none) := by
  unfold stoppedClock
  split
  · exact ⟨.inr rfl, .inr rfl⟩
  · exact ⟨.inl rfl, .inl rfl⟩

theorem HandleOk.of_eq_or_none {s : State} {old new : Option Handle} (h : HandleOk s old) (hl : new = old ∨ new = none) :
    HandleOk s new := by
  rcases hl with rfl | rfl
  · exact h
  · trivial

/-- The CPU's clock keeps the invariant. -/
theorem CpuClocked.inv {s t : State} (h : CpuClocked s t) (hf : s.fault = none) (hs : Inv s) : Inv t := by
  have he := h.effect
  have never_nmos : s.runState ≠ .normal → s.cfg.variant = .nmos → t.runState = .normal :=
    fun hrun hv => absurd (hs.nmosNormal hv) hrun
  cases h with
  | passed hrun _ ht =>
    subst ht
    exact Inv.of_effect hs he (fun _ => hrun) (by simp [hf]) hs.nmiHandle hs.irqHandle
  | serviced kind hrun _ _ ht =>
    subst ht
    obtain ⟨hnmi, hirq, keepNmi, keepIrq⟩ := serviceInterrupt_latches kind s
    refine Inv.of_effect hs he (fun _ => by simp [serviceInterrupt, hrun]) (by simp [serviceInterrupt, hf]) ?_ ?_
    · by_cases hk : kind = .nmi
      · exact HandleOk.of_eq_or_none hs.nmiHandle (.inr (hnmi hk))
      · exact HandleOk.of_latchFrom hs.nmiHandle (keepNmi hk)
    · by_cases hk : kind = .irq
      · exact HandleOk.of_eq_or_none hs.irqHandle (.inr (hirq hk))
      · exact HandleOk.of_latchFrom hs.irqHandle (keepIrq hk)
  | raised hrun hcycles hacc ht =>
    obtain ⟨-, hcycles', -, hrun'⟩ := ht
    exact Inv.of_effect hs he (fun _ => hrun'.trans hrun) (fun _ => ⟨hcycles'.trans hcycles, hrun'.trans hrun⟩)
      (HandleOk.of_latchFrom hs.nmiHandle hacc.nmi) (HandleOk.of_latchFrom hs.irqHandle hacc.irq)
  | ran hrun hacc ht =>
    obtain ⟨hfault, -, hrun'⟩ := ht
    exact Inv.of_effect hs he (fun hv => (hrun' hv).trans hrun) (by simp [hfault, hf])
      (HandleOk.of_latchFrom hs.nmiHandle hacc.nmi) (HandleOk.of_latchFrom hs.irqHandle hacc.irq)
  | waited hrun ht =>
    subst ht
    obtain ⟨hnmi, hirq⟩ := waitingClock_latches s
    exact Inv.of_effect hs he (never_nmos (by simp [hrun])) (by simp [hf])
      (HandleOk.of_eq_or_none hs.nmiHandle (.inl hnmi)) (HandleOk.of_eq_or_none hs.irqHandle (.inl hirq))
  | stopped hrun ht =>
    subst ht
    obtain ⟨hnmi, hirq⟩ := stoppedClock_latches s
    exact Inv.of_effect hs he (never_nmos (by simp [hrun])) (by simp [hf])
      (HandleOk.of_eq_or_none hs.nmiHandle hnmi) (HandleOk.of_eq_or_none hs.irqHandle hirq)

theorem step_inv {s t : State} (hs : Inv s) (h : step s = .next t) : Inv t := by
  obtain ⟨-, hf, u, v, hu, hclock, hv⟩ := step_cases h
  have counted : Inv { s with clockCalls := s.clockCalls + 1 } :=
    ⟨hs.memory, hs.nmosNormal, hs.faultAtBoundary, hs.nmiHandle, hs.irqHandle⟩
  exact hv.inv (hclock.inv (hu.fault.trans hf) (hu.inv counted))

/-! ## The reset -/

theorem deviceReset_kept (d : Device) (io : HostIO) :
    SameDevice d (deviceReset d io).1 ∧ (MemoryOk d → MemoryOk (deviceReset d io).1) := by
  cases d with
  | other range calls => exact ⟨⟨rfl, [.reset], rfl⟩, id⟩
  | _ => simp [deviceReset, SameDevice, MemoryOk]

@[simp] theorem cpuReset_events (s : State) : (cpuReset s).io.events = s.io.events := by
  simp [cpuReset]

theorem cpuReset_effect (s : State) : Effect s (cpuReset s) :=
  ⟨rfl, rfl, (Access.resetReadWord s s.cfg.resetVec).devices, .of_eq (cpuReset_events s)⟩

theorem resetDevice_of_cpu {k : Nat} {s : State} (h : s.devices[k]? = some .cpu) : resetDevice k s = cpuReset s := by
  simp [resetDevice, h]

theorem resetDevice_of_other {k : Nat} {d : Device} {s : State} (h : s.devices[k]? = some d) (hd : d ≠ .cpu) :
    resetDevice k s = { s with devices := s.devices.set k (deviceReset d s.io).1, io := (deviceReset d s.io).2 } := by
  unfold resetDevice
  split
  case h_1 h' => exact absurd (Option.some.inj (h.symm.trans h')) hd
  case h_2 e _ h' => rw [Option.some.inj (h.symm.trans h')]
  case h_3 h' => rw [h] at h'; cases h'

/-- The reset at a place: nothing, the CPU's, or another device's. -/
theorem resetDevice_cases (k : Nat) (s : State) :
    resetDevice k s = s ∨ (s.devices[k]? = some .cpu ∧ resetDevice k s = cpuReset s) ∨
      ∃ d, s.devices[k]? = some d ∧ d ≠ .cpu ∧
        resetDevice k s = { s with devices := s.devices.set k (deviceReset d s.io).1, io := (deviceReset d s.io).2 } := by
  cases hd : s.devices[k]? with
  | none => exact .inl (by simp [resetDevice, hd])
  | some d =>
    by_cases hcpu : d = .cpu
    · subst hcpu
      exact .inr (.inl ⟨rfl, resetDevice_of_cpu hd⟩)
    · exact .inr (.inr ⟨d, rfl, hcpu, resetDevice_of_other hd hcpu⟩)

theorem resetDevice_effect (k : Nat) (s : State) : Effect s (resetDevice k s) := by
  obtain h | ⟨-, h⟩ | ⟨d, hd, -, h⟩ := resetDevice_cases k s <;> rw [h]
  · exact .refl s
  · exact cpuReset_effect s
  · exact ⟨rfl, rfl, .set hd (deviceReset_kept d s.io), .of_eq (deviceReset_events d s.io)⟩

theorem resetDevices_effect (places : List Nat) (s : State) : Effect s (resetDevices places s) := by
  induction places generalizing s with
  | nil => exact .refl s
  | cons k places ih => exact (resetDevice_effect k s).trans (ih _)

theorem resetDevice_inv {s : State} (k : Nat) (hs : Inv s) : Inv (resetDevice k s) := by
  have he := resetDevice_effect k s
  obtain h | ⟨-, h⟩ | ⟨d, -, -, h⟩ := resetDevice_cases k s <;> rw [h] at he ⊢
  · exact hs
  · exact Inv.of_effect hs he (fun _ => rfl) nofun trivial trivial
  · exact Inv.of_effect hs he hs.nmosNormal hs.faultAtBoundary hs.nmiHandle hs.irqHandle

theorem resetDevices_inv {s : State} (places : List Nat) (hs : Inv s) : Inv (resetDevices places s) := by
  induction places generalizing s with
  | nil => exact hs
  | cons k rest ih => exact ih (resetDevice_inv k hs)

theorem busReset_inv {s : State} (hs : Inv s) : Inv (busReset s) :=
  have h := resetDevices_inv (List.range s.devices.length) hs
  ⟨h.memory, h.nmosNormal, h.faultAtBoundary, h.nmiHandle, h.irqHandle⟩

theorem request_inv {s : State} (kind : InterruptKind) (hs : Inv s) : Inv (request kind .host s) := by
  have latched : ∀ {latch : Option Handle} (k : InterruptKind), HandleOk s latch →
      HandleOk s (latchAfter s.fault.isSome k [{ kind := kind, source := .host }] latch) := by
    intro latch k h
    obtain e | ⟨r, hr, e⟩ := latchAfter_cases s.fault.isSome k [{ kind := kind, source := .host }] latch
    · rwa [e]
    · rw [e, List.mem_singleton.1 hr]
      trivial
  exact ⟨hs.memory, hs.nmosNormal, hs.faultAtBoundary, latched .nmi hs.nmiHandle, latched .irq hs.irqHandle⟩

/-- Settles O9: each clock of a step keeps the invariant, and so do a Bus access, a request and each reset. -/
theorem stepKeepsInvariant : Obligations.StepKeepsInvariant := by
  intro s hs
  refine ⟨fun t h => step_inv hs h, fun h => ?_⟩
  cases h with
  | request kind => exact request_inv kind hs
  | busRead a => exact Inv.of_access hs (.memRead s a) (sameEngine_refl s)
  | busWrite a v => exact Inv.of_access hs (.memWrite s a v) (sameEngine_refl s)
  | reset => exact busReset_inv hs
  | _ => exact ⟨hs.memory, hs.nmosNormal, hs.faultAtBoundary, hs.nmiHandle, hs.irqHandle⟩

/-- Settles O8: nothing is latched or recorded at reset, the run state is Normal and the one memory is empty. -/
theorem resetMeetsInvariant : Obligations.ResetMeetsInvariant where
  memory d hd := by
    rcases List.mem_pair.1 hd with rfl | rfl
    · exact ⟨rfl, nofun⟩
    · trivial
  nmosNormal _ := rfl
  faultAtBoundary := nofun
  nmiHandle := trivial
  irqHandle := trivial

end Sys2Proof.Machine
end

section
/-!
The reset of the CPU and of the Bus, place by place (20_memory.md R58, 70_reset_and_hazards.md R370, R372, R373).
-/

namespace Sys2Proof.Machine

open Sys2Proof.Claims

/-- The byte of the status register at reset, R42. -/
@[simp] theorem statusByte_cpuReset (s : State) : statusByte (cpuReset s) = 0x24 := by
  show serialize Status.reset false = 0x24
  decide

theorem resetReadWord_fst (s : State) (a : Addr) :
    (resetReadWord s a).1 = BitVec.ofNat 16 (256 * (resetRead (resetRead s a).2 (a + 1)).1.toNat + (resetRead s a).1.toNat) :=
  word_eq _ _

/-- The word that memory holds is read without a change. -/
theorem resetReadWord_of_memoryByte {s : State} {a : Addr} {lo hi : Byte} (hl : memoryByte s.devices a = some lo)
    (hh : memoryByte s.devices (a + 1) = some hi) :
    resetReadWord s a = (BitVec.ofNat 16 (256 * hi.toNat + lo.toNat), s) := by
  simp only [resetReadWord, resetRead_of_memoryByte hl, resetRead_of_memoryByte hh, word_eq]

theorem cpuReset_storesNothing (s : State) : StoresNothing s (cpuReset s) :=
  have h := resetReadWord_storesNothing s s.cfg.resetVec
  ⟨h.1, h.2.1, h.2.2.1, fun _ => cpuReset_events s⟩

/-- Settles O5: field by field; the vector's word is that of its two reads. -/
theorem cpuResetState : Obligations.CpuResetState := by
  intro s w t
  refine ⟨rfl, rfl, statusByte_cpuReset s, rfl, rfl, rfl, rfl, rfl, rfl, rfl, rfl, rfl, rfl, rfl, rfl, rfl, rfl, rfl, rfl, rfl, rfl,
    cpuReset_storesNothing s, rfl, rfl, cpuReset_events s, ?_, fun lo hi hl hh => ?_⟩
  · exact ⟨(resetRead s s.cfg.resetVec).2, _, _, rfl, rfl, resetRead_events s _, rfl, rfl, resetReadWord_fst s _⟩
  · have hw : w = _ := resetReadWord_of_memoryByte hl hh
    simp only [t, cpuReset]
    rw [show resetReadWord s s.cfg.resetVec = _ from hw]
    exact ⟨rfl, rfl, rfl⟩

/-! ## The places of a Bus reset -/

theorem resetDevices_append (xs ys : List Nat) (s : State) :
    resetDevices (xs ++ ys) s = resetDevices ys (resetDevices xs s) := by
  induction xs generalizing s with
  | nil => rfl
  | cons k xs ih => exact ih (resetDevice k s)

/-- The reset at one place only reads the devices at the others. -/
theorem resetDevice_elsewhere {j k : Nat} (hjk : j ≠ k) {s : State} {d : Device} (hd : s.devices[k]? = some d) :
    ∃ e, (resetDevice j s).devices[k]? = some e ∧ OnlyRead d e := by
  obtain h | ⟨-, h⟩ | ⟨f, -, -, h⟩ := resetDevice_cases j s <;> rw [h]
  · exact ⟨d, hd, .refl d⟩
  · exact (cpuReset_storesNothing s).2.2.1 k d hd
  · exact ⟨d, by simp [hjk, hd], .refl d⟩

theorem resetDevices_elsewhere {places : List Nat} {k : Nat} (hk : k ∉ places) {s : State} {d : Device}
    (hd : s.devices[k]? = some d) : ∃ e, (resetDevices places s).devices[k]? = some e ∧ OnlyRead d e := by
  induction places generalizing s d with
  | nil => exact ⟨d, hd, .refl d⟩
  | cons j places ih =>
    simp only [List.mem_cons, not_or] at hk
    obtain ⟨e, he, hde⟩ := resetDevice_elsewhere (Ne.symm hk.1) hd
    obtain ⟨f, hf, hef⟩ := ih hk.2 he
    exact ⟨f, hf, hde.trans hef⟩

/-- No device emits an event in a Bus reset (R372). -/
theorem resetDevice_events (k : Nat) (s : State) : (resetDevice k s).io.events = s.io.events := by
  obtain h | ⟨-, h⟩ | ⟨d, -, -, h⟩ := resetDevice_cases k s <;> simp [h]

theorem resetDevices_events (places : List Nat) (s : State) : (resetDevices places s).io.events = s.io.events := by
  induction places generalizing s with
  | nil => rfl
  | cons k places ih => exact (ih _).trans (resetDevice_events k s)

/-- The reset of a device leaves what memory holds. -/
theorem memoryByte_set_deviceReset {ds : List Device} {k : Nat} {d : Device} (hd : ds[k]? = some d) (io : HostIO) (a : Addr) :
    memoryByte (ds.set k (deviceReset d io).1) a = memoryByte ds a := by
  induction ds generalizing k with
  | nil => rfl
  | cons e ds ih =>
    cases k with
    | zero =>
      obtain rfl : e = d := by simpa using hd
      have same : deviceContains (deviceReset e io).1 a = deviceContains e a := by
        simp only [deviceContains, SameDevice.deviceRange (deviceReset_kept e io).1]
      simp only [List.set_cons_zero, memoryByte, same]
      cases e <;> rfl
    | succ k =>
      simp only [List.set_cons_succ, memoryByte, ih (by simpa using hd)]

theorem resetDevice_memoryByte (k : Nat) (s : State) (a : Addr) :
    memoryByte (resetDevice k s).devices a = memoryByte s.devices a := by
  obtain h | ⟨-, h⟩ | ⟨d, hd, -, h⟩ := resetDevice_cases k s <;> rw [h]
  · exact (cpuReset_storesNothing s).1 a
  · exact memoryByte_set_deviceReset hd s.io a

theorem resetDevices_memoryByte (places : List Nat) (s : State) (a : Addr) :
    memoryByte (resetDevices places s).devices a = memoryByte s.devices a := by
  induction places generalizing s with
  | nil => rfl
  | cons k places ih => exact (ih _).trans (resetDevice_memoryByte k s a)

/-- The resets of other devices leave the CPU. -/
theorem resetDevices_passive {places : List Nat} {s : State} (hp : ∀ k ∈ places, s.devices[k]? ≠ some .cpu) :
    ∃ ds io, resetDevices places s = { s with devices := ds, io := io } := by
  induction places generalizing s with
  | nil => exact ⟨s.devices, s.io, rfl⟩
  | cons k places ih =>
    have hk := hp k List.mem_cons_self
    have hkept := (resetDevice_effect k s).devices
    obtain ⟨ds, io, h⟩ := ih (s := resetDevice k s) fun j hj => by
      rw [Ne, hkept.cpu_iff]
      exact hp j (List.mem_cons_of_mem _ hj)
    refine ⟨ds, io, h.trans ?_⟩
    obtain h | ⟨hcpu, -⟩ | ⟨d, -, -, h⟩ := resetDevice_cases k s
    · rw [h]
    · exact absurd hcpu hk
    · rw [h]

/-! ## The Bus reset -/

/-- What a Bus reset leaves of the CPU is its own reset, made when its turn comes. -/
theorem busReset_cpu {s : State} (h : configOk s = true) :
    ∃ ds io, busReset s =
      { cpuReset (resetDevices (List.range (s.devices.idxOf .cpu)) s) with devices := ds, io := io, clockCalls := 0 } := by
  obtain ⟨hcpu, -, rest, hplaces, hafter⟩ := exists_places h
  have hkept := (resetDevices_effect (List.range (s.devices.idxOf .cpu)) s).devices
  have hcpu' := (hkept.cpu_iff _).2 hcpu
  obtain ⟨ds, io, e⟩ := resetDevices_passive (places := rest)
      (s := cpuReset (resetDevices (List.range (s.devices.idxOf .cpu)) s)) fun k hk => by
    rw [Ne, (cpuReset_effect _).devices.cpu_iff, hkept.cpu_iff]
    exact hafter k hk
  refine ⟨ds, io, ?_⟩
  rw [busReset, hplaces, resetDevices_append, resetDevices, resetDevice_of_cpu hcpu', e]

/-- The device at place `k` in a Bus reset: read at most before its turn, reset, and read at most after it. -/
theorem busReset_place {s : State} {k : Nat} {d : Device} (hd : s.devices[k]? = some d) :
    let u := resetDevices (List.range k) s
    resetDevices (List.range (k + 1)) s = resetDevice k u ∧
      ∃ e f d', u.devices[k]? = some e ∧ OnlyRead d e ∧ (resetDevice k u).devices[k]? = some f ∧ OnlyRead f d' ∧
        (busReset s).devices[k]? = some d' := by
  intro u
  have turn : resetDevices (List.range (k + 1)) s = resetDevice k u := by
    rw [List.range_succ, resetDevices_append]
    rfl
  obtain ⟨e, he, hde⟩ := resetDevices_elsewhere (places := List.range k) (by simp) hd
  obtain ⟨f, hf, -⟩ := (resetDevice_effect k u).devices.2 k e he
  obtain ⟨n, hn⟩ := Nat.exists_eq_add_of_le (List.getElem?_eq_some_iff.1 hd).1
  obtain ⟨d', hd', hfd⟩ := resetDevices_elsewhere (places := (List.range n).map (k.succ + ·)) (by simp; omega) hf
  refine ⟨turn, e, f, d', he, hde, hf, hfd, ?_⟩
  rw [← hd', ← turn, ← resetDevices_append, ← List.range_add, ← hn]
  rfl

/-- Reads leave a device of R330 to R339. -/
theorem OnlyRead.eq {d e : Device} (h : OnlyRead d e) (hd : ∀ range calls, d ≠ .other range calls) : e = d := by
  obtain h | ⟨range, calls, -, h, -⟩ := h
  · exact h
  · exact absurd h (hd range calls)

theorem OnlyRead.other {range : Option (Addr × Addr)} {calls : List DeviceCall} {e : Device}
    (h : OnlyRead (.other range calls) e) :
    ∃ gets, e = .other range (gets ++ calls) ∧ ∀ c ∈ gets, ∃ a, c = .get a := by
  obtain rfl | ⟨_, _, gets, h, he, hg⟩ := h
  · exact ⟨[], rfl, nofun⟩
  · cases h
    exact ⟨gets, he, hg⟩

/-- A device of R330 to R339 is left by a Bus reset as its own reset leaves it. -/
theorem busReset_of_described {s : State} {k : Nat} {d : Device} (hd : s.devices[k]? = some d) (hcpu : d ≠ .cpu)
    (hother : ∀ range calls, d ≠ .other range calls) :
    let u := resetDevices (List.range k) s
    (busReset s).devices[k]? = some (deviceReset d u.io).1 ∧
      (resetDevices (List.range (k + 1)) s).io = (deviceReset d u.io).2 := by
  obtain ⟨turn, e, f, d', he, hde, hf, hfd, hd'⟩ := busReset_place hd
  obtain rfl := OnlyRead.eq hde hother
  rw [resetDevice_of_other he hcpu] at turn hf
  obtain rfl : _ = f := by simpa [(List.getElem?_eq_some_iff.1 he).1] using hf
  have hreset : ∀ range calls, (deviceReset e (resetDevices (List.range k) s).io).1 ≠ .other range calls := by
    cases e with
    | other range calls => exact absurd rfl (hother range calls)
    | _ => exact fun _ _ => nofun
  rw [hd', OnlyRead.eq hfd hreset, turn]
  exact ⟨rfl, rfl⟩

/-- A device of R308 records one reset in a Bus reset, and the reads of the vector that it answers (R373). -/
theorem busReset_of_other {s : State} {k : Nat} {range : Option (Addr × Addr)} {calls : List DeviceCall}
    (hd : s.devices[k]? = some (.other range calls)) :
    ∃ more, (busReset s).devices[k]? = some (.other range (more ++ calls)) ∧ more.count .reset = 1 ∧
      ∀ c ∈ more, c = .reset ∨ ∃ a, c = .get a := by
  obtain ⟨-, e, f, d', he, hde, hf, hfd, hd'⟩ := busReset_place hd
  obtain ⟨before, rfl, hbefore⟩ := OnlyRead.other hde
  rw [resetDevice_of_other he nofun] at hf
  obtain rfl : Device.other range (.reset :: (before ++ calls)) = f := by
    simpa [(List.getElem?_eq_some_iff.1 he).1, deviceReset] using hf
  obtain ⟨after, rfl, hafter⟩ := OnlyRead.other hfd
  have none_reset : ∀ {gets : List DeviceCall}, (∀ c ∈ gets, ∃ a, c = .get a) → gets.count .reset = 0 := fun h =>
    List.count_eq_zero.2 fun hm => by
      obtain ⟨a, ha⟩ := h _ hm
      cases ha
  refine ⟨after ++ .reset :: before, by simpa using hd', by simp [none_reset hbefore, none_reset hafter], fun c hc => ?_⟩
  rcases List.mem_append.1 hc with hc | hc
  · exact .inr (hafter c hc)
  · rcases List.mem_cons.1 hc with rfl | hc
    · exact .inl rfl
    · exact .inr (hbefore c hc)

/-- Settles O6: each device by its turn, then the CPU's fields. -/
theorem busResetDevices : Obligations.BusResetDevices := by
  intro s hok t w
  have heffect : Effect s (resetDevices (List.range s.devices.length) s) := resetDevices_effect _ s
  refine ⟨heffect.devices.1, fun k d hd => ?_, ?_⟩
  · obtain ⟨d', hd', hsame, -⟩ := heffect.devices.2 k d hd
    have described := fun hcpu hother => busReset_of_described hd hcpu hother
    refine ⟨d', hd', hsame, fun lo hi cells e => ?_, fun start r e => ?_, fun start data e => ?_, fun start r e => ?_,
      fun range calls e => ?_⟩
    · subst e
      exact Option.some.inj (hd'.symm.trans (described nofun nofun).1)
    · subst e
      exact Option.some.inj (hd'.symm.trans (described nofun nofun).1)
    · subst e
      exact ⟨Option.some.inj (hd'.symm.trans (described nofun nofun).1), (described nofun nofun).2⟩
    · subst e
      refine ⟨_, _, _, _, _, _, _, _, Prod.ext rfl (described nofun nofun).2.symm, ?_⟩
      simp only [← word_eq]
      exact Option.some.inj (hd'.symm.trans (described nofun nofun).1)
    · subst e
      obtain ⟨more, hmore, hcount, hcalls⟩ := busReset_of_other hd
      exact ⟨more, Option.some.inj (hd'.symm.trans hmore), hcount, hcalls⟩
  · have hevents : t.io.events = s.io.events := resetDevices_events _ s
    have hcfg := (resetDevices_effect (List.range (s.devices.idxOf .cpu)) s).cfg
    have hmem := resetDevices_memoryByte (List.range (s.devices.idxOf .cpu)) s
    obtain ⟨ds, io, e⟩ := busReset_cpu hok
    simp only [t, e] at hevents ⊢
    simp only [w, ← hcfg] at hmem ⊢
    generalize resetDevices (List.range (s.devices.idxOf .cpu)) s = u at hmem ⊢
    refine ⟨rfl, rfl, statusByte_cpuReset u, rfl, rfl, rfl, rfl, rfl, rfl, rfl, rfl, rfl, rfl, rfl, trivial, fun lo hi hl hh => ?_,
      hevents⟩
    exact congrArg Prod.fst (resetReadWord_of_memoryByte ((hmem _).trans hl) ((hmem _).trans hh))

end Sys2Proof.Machine
end

section
/-!
Loads, transfers, pushes, pulls, BRK and RTI (40_load_store.md, 41_transfer_stack.md, 45_system.md): each is one of the shared operations
on the operand, with its frame said once.
-/

namespace Sys2Proof.Machine

open Sys2Proof.Claims

/-! ## The status byte -/

/-- The flags of a byte are its bits and its number alike (R24). -/
theorem setNZ_eq_nz (v : Byte) (p : Status) : setNZ v p = nz v p := by
  have bits : ∀ v : Byte, (v == 0) = decide (v.toNat = 0) ∧ v.getLsbD 7 = decide (128 ≤ v.toNat) := by decide
  simp only [setNZ, nz, bits v]

/-- Settles O34: over the flags for the byte made of them, and over the 256 bytes for the flags taken from one. -/
theorem statusByteBits : Obligations.StatusByteBits := by
  intro p b4 v
  have reread : ∀ v : Byte, serialize (deserialize v) (v.getLsbD 4) = v ||| 0x20 := by decide
  have bit5 : ∀ v : Byte, deserialize (v ^^^ 0x20) = deserialize v := by decide
  exact ⟨serialize_toNat p b4, deserialize_serialize p b4, reread v, bit5 v⟩

/-! ## Loading a register -/

section
variable {s : State} {m : Byte × State} {sp : Byte}
  (hr : Registers m.2 s.a s.x s.y sp s.pc s.p) (he : SameEngine s m.2) (hs : StoresNothing s m.2)
include hr he hs

/-- Loading A with a byte that was read from `s` on: A, N and Z, and nothing else. -/
theorem loadInto_setA :
    Registers (loadInto setA m) m.1 s.x s.y sp s.pc (nz m.1 s.p) ∧ SameEngine s (loadInto setA m) ∧
      ReadsOnly m.2 s (loadInto setA m) := by
  obtain ⟨-, hx, hy, hsp, hpc, hp⟩ := hr
  exact ⟨⟨rfl, hx, hy, hsp, hpc, (setNZ_eq_nz _ _).trans (congrArg (nz m.1) hp)⟩, he, readsOnly_of hs ⟨rfl, rfl, rfl, rfl⟩⟩

/-- The same for X. -/
theorem loadInto_setX :
    Registers (loadInto setX m) s.a m.1 s.y sp s.pc (nz m.1 s.p) ∧ SameEngine s (loadInto setX m) ∧
      ReadsOnly m.2 s (loadInto setX m) := by
  obtain ⟨ha, -, hy, hsp, hpc, hp⟩ := hr
  exact ⟨⟨ha, rfl, hy, hsp, hpc, (setNZ_eq_nz _ _).trans (congrArg (nz m.1) hp)⟩, he, readsOnly_of hs ⟨rfl, rfl, rfl, rfl⟩⟩

/-- The same for Y. -/
theorem loadInto_setY :
    Registers (loadInto setY m) s.a s.x m.1 sp s.pc (nz m.1 s.p) ∧ SameEngine s (loadInto setY m) ∧
      ReadsOnly m.2 s (loadInto setY m) := by
  obtain ⟨ha, hx, -, hsp, hpc, hp⟩ := hr
  exact ⟨⟨ha, hx, rfl, hsp, hpc, (setNZ_eq_nz _ _).trans (congrArg (nz m.1) hp)⟩, he, readsOnly_of hs ⟨rfl, rfl, rfl, rfl⟩⟩

end

theorem registers_refl (s : State) : Registers s s.a s.x s.y s.sp s.pc s.p := ⟨rfl, rfl, rfl, rfl, rfl, rfl⟩

theorem load_frame (src : Src) (s : State) :
    Registers (load src s).2 s.a s.x s.y s.sp s.pc s.p ∧ SameEngine s (load src s).2 := by
  simp [Registers, SameEngine]

theorem pull_frame (s : State) :
    Registers (pull s).2 s.a s.x s.y (s.sp + 1) s.pc s.p ∧ SameEngine s (pull s).2 :=
  ⟨⟨rfl, rfl, rfl, rfl, rfl, rfl⟩, rfl, rfl, rfl, rfl, rfl, rfl⟩

theorem push_frame (v : Byte) (s : State) :
    Registers (push v s) s.a s.x s.y (s.sp - 1) s.pc s.p ∧ SameEngine s (push v s) :=
  ⟨⟨rfl, rfl, rfl, rfl, rfl, rfl⟩, rfl, rfl, rfl, rfl, rfl, rfl⟩

/-- Settles O35: a register loaded with the operand's byte. -/
theorem loadInstructions : Obligations.LoadInstructions := by
  intro src s m
  obtain ⟨hr, he⟩ := load_frame src s
  have hs := load_storesNothing src s
  exact ⟨⟨_, rfl, loadInto_setA hr he hs⟩, ⟨_, rfl, loadInto_setX hr he hs⟩, ⟨_, rfl, loadInto_setY hr he hs⟩⟩

/-- Settles O37: a register loaded with another register's byte; TXS writes SP alone. -/
theorem transferInstructions : Obligations.TransferInstructions := by
  intro s
  have hr := registers_refl s
  have he := sameEngine_refl s
  have hs := StoresNothing.refl s
  exact ⟨⟨_, rfl, loadInto_setX (m := (s.a, s)) hr he hs⟩, ⟨_, rfl, loadInto_setY (m := (s.a, s)) hr he hs⟩,
    ⟨_, rfl, loadInto_setA (m := (s.x, s)) hr he hs⟩, ⟨_, rfl, loadInto_setA (m := (s.y, s)) hr he hs⟩,
    ⟨_, rfl, loadInto_setX (m := (s.sp, s)) hr he hs⟩,
    ⟨_, rfl, ⟨rfl, rfl, rfl, rfl, rfl, rfl⟩, he, readsOnly_of hs ⟨rfl, rfl, rfl, rfl⟩⟩⟩

/-- Settles O38: one push each; PHP's byte is the status byte with bits 5 and 4 set. -/
theorem pushInstructions : Obligations.PushInstructions := by
  intro s i v h
  obtain ⟨hr, he⟩ := push_frame v s
  refine ⟨push v s, ?_, hr, he, push_storesAt v s⟩
  rcases h with ⟨rfl, rfl⟩ | ⟨rfl, rfl⟩ | ⟨rfl, rfl⟩ | ⟨rfl, hv⟩
  · rfl
  · rfl
  · rfl
  · obtain rfl : v = serialize s.p true := BitVec.eq_of_toNat_eq (by
      rw [hv, serialize_toNat, Bool.toNat_true])
    rfl

/-- Settles O39: a register loaded with the pulled byte; PLP takes the flags from it. -/
theorem pullInstructions : Obligations.PullInstructions := by
  intro s m
  obtain ⟨hr, he⟩ := pull_frame s
  have hs := pull_storesNothing s
  exact ⟨⟨_, rfl, loadInto_setA hr he hs⟩, ⟨_, rfl, loadInto_setX hr he hs⟩, ⟨_, rfl, loadInto_setY hr he hs⟩,
    ⟨_, rfl, ⟨rfl, rfl, rfl, rfl, rfl, rfl⟩, he, readsOnly_of hs ⟨rfl, rfl, rfl, rfl⟩⟩⟩

/-! ## BRK and RTI -/

theorem serialize_bit5 (p : Status) (b4 : Bool) : (serialize p b4).getLsbD 5 = true := by
  obtain ⟨n, v, b, d, i, z, c⟩ := p
  revert n v b d i z c b4
  decide

theorem hiByte_eq (w : Addr) : hiByte w = BitVec.ofNat 8 (w.toNat / 256) :=
  BitVec.eq_of_toNat_eq (by rw [hiByte_toNat, BitVec.toNat_ofNat]; omega)

/-- Settles O55: the entry of R260 from one past PC; PC itself does not reach the Bus. -/
theorem breakInstruction : Obligations.BreakInstruction := by
  intro s
  let pushed := push (serialize s.p true) (push (loByte (s.pc + 1)) (push (hiByte (s.pc + 1)) s))
  let t := enterException true s.cfg.irqVec { s with pc := s.pc + 1 }
  have hside : SameSide (readWord pushed s.cfg.irqVec).2 t ∧ t.pc = (readWord pushed s.cfg.irqVec).1 :=
    ⟨⟨rfl, rfl, rfl, rfl⟩, rfl⟩
  obtain ⟨hout, hhi, hlo, hst⟩ := memoryByte_push_push_push s (hiByte (s.pc + 1)) (loByte (s.pc + 1)) (serialize s.p true)
  have hmem : ∀ a, memoryByte t.devices a = memoryByte pushed.devices a := fun a => by
    rw [hside.1.1]
    exact (readWord_storesNothing pushed s.cfg.irqVec).1 a
  have hsp : s.sp - 3 = s.sp - 1 - 1 - 1 := by bv_omega
  rw [hsp]
  refine ⟨t, pushed, rfl, rfl, ⟨by simp [t], by simp [t], by simp [t], by simp [t], hside.2, rfl⟩, by simp [t, SameEngine],
    hside.1, fun a h0 h1 h2 => (hmem a).trans (hout a h0 h1 h2), fun h => ?_, fun h => ?_, fun h => ?_⟩
  · rw [hmem, hhi h, hiByte_eq, BitVec.toNat_add]
    rfl
  · rw [hmem, hlo h]
    refine congrArg some (BitVec.eq_of_toNat_eq ?_)
    rw [loByte_toNat, BitVec.toNat_add, BitVec.toNat_ofNat, Nat.mod_mod_of_dvd _ (by decide)]
    rfl
  · have hbits := deserialize_serialize s.p true
    exact ⟨serialize s.p true, (hmem _).trans (hst h), congrArg Status.b hbits, serialize_bit5 s.p true,
      congrArg Status.i hbits, hbits⟩

/-- Settles O56: three pulls, and B forced to 1. -/
theorem returnFromInterrupt : Obligations.ReturnFromInterrupt := by
  intro s
  have hsp2 : s.sp + 2 = s.sp + 1 + 1 := by bv_omega
  have hsp3 : s.sp + 3 = s.sp + 1 + 1 + 1 := by bv_omega
  rw [hsp2, hsp3]
  exact ⟨returnFromException s, _, _, _, rfl, rfl, rfl, rfl, ⟨rfl, rfl, rfl, rfl, word_eq _ _, rfl⟩, sameEngine_refl s,
    readsOnly_of (returnFromException_storesNothing s) ⟨rfl, rfl, rfl, rfl⟩⟩

end Sys2Proof.Machine
end

section
/-!
What every instruction leaves alone (10_state.md R21 to R23, R29, R33 to R38, 30_encoding.md R96).
-/

namespace Sys2Proof.Machine

open Sys2Proof.Claims

/-- Settles O59: an instruction reaches the rest of the machine by Bus accesses, and the engine's fields as `exec_engine` says. -/
theorem everyInstructionCompletes : Obligations.EveryInstructionCompletes := by
  intro i s
  obtain ⟨t, ht, hacc⟩ := exec_access i s
  obtain ⟨hcycles, htotal, hrun, hfault⟩ := exec_engine ht
  exact ⟨t, ht, hacc.cfg, hcycles, htotal, hacc.nmi, hacc.irq, hacc.clockCalls, hrun, hfault⟩

/-- The registers and flags that `i` is not listed to write are in `t` as in `s` (R21 to R23, R33 to R38). -/
def KeepsUnlisted (i : Instr) (s t : State) : Prop :=
  (writesA i = false → t.a = s.a) ∧ (writesX i = false → t.x = s.x) ∧ (writesY i = false → t.y = s.y) ∧
    (writesSP i = false → t.sp = s.sp) ∧ (writesPC i = false → t.pc = s.pc) ∧
    (writesC i = false → t.p.c = s.p.c) ∧ (writesZ i = false → t.p.z = s.p.z) ∧ (writesN i = false → t.p.n = s.p.n) ∧
    (writesV i = false → t.p.v = s.p.v) ∧ (writesD i = false → t.p.d = s.p.d) ∧ (writesI i = false → t.p.i = s.p.i) ∧
    (writesB i = false → t.p.b = s.p.b)

theorem exec_keepsUnlisted {i : Instr} {s t : State} (h : exec i s = .next t) : KeepsUnlisted i s t := by
  simp only [KeepsUnlisted]
  cases i with
  | lda m | ldx m | ldy m | and m | ora m | eor m =>
    cases h
    simp [loadInto, logical, setNZ, writesA.eq_def, writesX.eq_def, writesY.eq_def, writesZ.eq_def, writesN.eq_def]
  | adc m | sbc m =>
    cases h
    simp [arithmetic, arithmeticFlags, setNZ, writesA.eq_def, writesC.eq_def, writesZ.eq_def, writesN.eq_def, writesV.eq_def]
  | cmp m | cpx m | cpy m => cases h; simp [compareRegister, compareFlags, writesC.eq_def, writesZ.eq_def, writesN.eq_def]
  | bit m => cases h; simp [bitFlags, writesZ.eq_def, writesN.eq_def, writesV.eq_def]
  | bitImmediate v => cases h; simp [testFlags, writesZ.eq_def]
  | sta m | stx m | sty m | stz m => cases h; simp
  | inc m | dec m => cases h; simp [incOp, decOp, setNZ, writesZ.eq_def, writesN.eq_def]
  | tsb m | trb m => cases h; simp [tsbOp, trbOp, testFlags, writesZ.eq_def]
  | rmb0 z | rmb1 z | rmb2 z | rmb3 z | rmb4 z | rmb5 z | rmb6 z | rmb7 z => cases h; simp [rmbOp]
  | smb0 z | smb1 z | smb2 z | smb3 z | smb4 z | smb5 z | smb6 z | smb7 z => cases h; simp [smbOp]
  | asl d | lsr d | rol d | ror d =>
    cases h
    cases d <;> simp [modifyRmw, aslOp, lsrOp, rolOp, rorOp, setNZ, writesA.eq_def, writesC.eq_def, writesZ.eq_def, writesN.eq_def]
  | bpl d | bmi d | bvc d | bvs d | bcc d | bcs d | bne d | beq d => cases h; simp [branchIf_eq, writesPC.eq_def]
  | bbr0 z d | bbr1 z d | bbr2 z d | bbr3 z d | bbr4 z d | bbr5 z d | bbr6 z d | bbr7 z d =>
    cases h
    simp [branchOnBit, branchIf_eq, writesPC.eq_def]
  | bbs0 z d | bbs1 z d | bbs2 z d | bbs3 z d | bbs4 z d | bbs5 z d | bbs6 z d | bbs7 z d =>
    cases h
    simp [branchOnBit, branchIf_eq, writesPC.eq_def]
  | bra d | jmp a | jmpIndirect a | jsr a | rts | brk | rti =>
    cases h
    simp [writesSP.eq_def, writesPC.eq_def, writesC.eq_def, writesZ.eq_def, writesN.eq_def, writesV.eq_def, writesD.eq_def,
      writesI.eq_def, writesB.eq_def]
  | incA | decA => cases h; simp [incOp, decOp, setNZ, writesA.eq_def, writesZ.eq_def, writesN.eq_def]
  | tax | tay | txa | tya | tsx | inx | iny | dex | dey =>
    cases h
    simp [loadInto, setNZ, writesA.eq_def, writesX.eq_def, writesY.eq_def, writesZ.eq_def, writesN.eq_def]
  | txs | pha | php | phx | phy => cases h; simp [writesSP.eq_def]
  | pla | plx | ply | plp =>
    cases h
    simp [loadInto, setNZ, writesA.eq_def, writesX.eq_def, writesY.eq_def, writesSP.eq_def, writesC.eq_def, writesZ.eq_def,
      writesN.eq_def, writesV.eq_def, writesD.eq_def, writesI.eq_def, writesB.eq_def]
  | clc | sec | cli | sei | cld | sed | clv => cases h; simp [writesC.eq_def, writesD.eq_def, writesI.eq_def, writesV.eq_def]
  | nop | wai | stp | jam op | notImplemented op => cases h; simp

/-- An instruction that is not listed to store reads memory and devices at most (R96). -/
theorem exec_storesNothing {i : Instr} {s t : State} (h : exec i s = .next t) (hw : writesMemory i = false) :
    StoresNothing s t := by
  have untouched : ∀ {t : State}, t.devices = s.devices → t.io = s.io → StoresNothing s t := (StoresNothing.refl s).of_eq
  cases i with
  | lda m | ldx m | ldy m | adc m | sbc m | cmp m | cpx m | cpy m | and m | ora m | eor m =>
    cases h
    exact (load_storesNothing m s).of_eq rfl rfl
  | bit m => cases h; exact (loadMem_storesNothing m s).of_eq rfl rfl
  | asl d | lsr d | rol d | ror d =>
    cases d with
    | accumulator => cases h; exact untouched rfl rfl
    | mem m => cases hw
  | pla | plx | ply | plp => cases h; exact (pull_storesNothing s).of_eq rfl rfl
  | rts => cases h; exact (pullWord_storesNothing s).of_eq rfl rfl
  | rti => cases h; exact returnFromException_storesNothing s
  | jmpIndirect a => cases h; exact (indirectTarget_storesNothing a s).of_eq rfl rfl
  | bpl d | bmi d | bvc d | bvs d | bcc d | bcs d | bne d | beq d => cases h; rw [branchIf_eq]; exact untouched rfl rfl
  | bbr0 z d | bbr1 z d | bbr2 z d | bbr3 z d | bbr4 z d | bbr5 z d | bbr6 z d | bbr7 z d =>
    cases h
    rw [branchOnBit, branchIf_eq]
    exact (memRead_storesNothing s (zext16 z)).of_eq rfl rfl
  | bbs0 z d | bbs1 z d | bbs2 z d | bbs3 z d | bbs4 z d | bbs5 z d | bbs6 z d | bbs7 z d =>
    cases h
    rw [branchOnBit, branchIf_eq]
    exact (memRead_storesNothing s (zext16 z)).of_eq rfl rfl
  | sta m | stx m | sty m | stz m | inc m | dec m | tsb m | trb m => cases hw
  | rmb0 z | rmb1 z | rmb2 z | rmb3 z | rmb4 z | rmb5 z | rmb6 z | rmb7 z => cases hw
  | smb0 z | smb1 z | smb2 z | smb3 z | smb4 z | smb5 z | smb6 z | smb7 z => cases hw
  | pha | php | phx | phy | jsr a | brk => cases hw
  | _ => cases h; exact untouched rfl rfl

/-- Settles O60: the registers and flags, then memory. -/
theorem onlyListedInstructionsWrite : Obligations.OnlyListedInstructionsWrite := by
  intro i s t h
  obtain ⟨ha, hx, hy, hsp, hpc, hc, hz, hn, hv, hd, hi, hb⟩ := exec_keepsUnlisted h
  exact ⟨ha, hx, hy, hsp, hpc, hc, hz, hn, hv, hd, hi, hb, exec_storesNothing h⟩

/-- Settles O13: with cycles left the Normal clock is the end of a cycle. -/
theorem timePassingCycle : Obligations.TimePassingCycle := by
  intro s hrun hcycles
  simp only [cpuClock, hrun, normalClock, if_neg (Nat.ne_of_gt hcycles), endCycle]

/-- Settles O21: a step looks at the fault before it clocks anything, a request is latched only without one, and the CPU's clock of R350
is reached only without one. -/
theorem faultedMachineHasNoStep : Obligations.FaultedMachineHasNoStep := by
  intro s f hf
  refine ⟨fun hok => by simp [step, clockCall, hok, hf], fun kind h => request_of_fault kind h hf, fun endAddr hended => ?_⟩
  obtain ⟨u, ⟨-, hnone, -⟩, -⟩ := hended
  rw [hf] at hnone
  cases hnone

end Sys2Proof.Machine
end

section
/-!
The timer's clock and the clocks that do nothing (60_exceptions.md R330, R331, R333, R335 to R339).
-/

namespace Sys2Proof.Machine

open Sys2Proof.Claims

/-! ## The timer -/

theorem timerClock_of_disabled {t : Timer} (h : t.enable = false) : timerClock t = (t, false) := by
  simp [timerClock, h]

/-- An enabled timer's clock in numbers (R333). -/
theorem timerClock_of_enabled {t : Timer} (h : t.enable = true) :
    timerClock t =
      if t.interval ≠ 0 ∧ (t.counter.toNat + 1) % 2 ^ 24 = t.interval.toNat then ({ t with counter := 0 }, true)
      else ({ t with counter := BitVec.ofNat 24 ((t.counter.toNat + 1) % 2 ^ 24) }, false) := by
  have count : (t.counter + 1).toNat = (t.counter.toNat + 1) % 2 ^ 24 := BitVec.toNat_add _ _
  have next : t.counter + 1 = BitVec.ofNat 24 ((t.counter.toNat + 1) % 2 ^ 24) := by
    rw [← count, BitVec.ofNat_toNat, BitVec.setWidth_eq]
  have reaches : t.counter + 1 = t.interval ↔ (t.counter.toNat + 1) % 2 ^ 24 = t.interval.toNat := by
    rw [← BitVec.toNat_inj, count]
  simp only [timerClock, h, if_true, reaches]
  rw [next]

theorem timerClock_of_interval_zero {t : Timer} (h : t.interval = 0) : (timerClock t).2 = false := by
  unfold timerClock
  split
  · rw [if_neg fun hfire => hfire.1 h]
  · rfl

/-- The last of `n + 1` clocks is one clock after `n`. -/
theorem timerAfter_succ (n : Nat) (t : Timer) : timerAfter (n + 1) t = (timerClock (timerAfter n t)).1 := by
  induction n generalizing t with
  | zero => rfl
  | succ n ih => exact ih (timerClock t).1

section
variable {t : Timer} (henable : t.enable = true) (hcounter : t.counter = 0)
include henable

/-- A count below the interval goes up by one, and fires where it reaches the interval. -/
theorem timerClock_of_count {n : Nat} (hn : n < t.interval.toNat) :
    timerClock { t with counter := BitVec.ofNat 24 n } =
      if n + 1 = t.interval.toNat then ({ t with counter := 0 }, true)
      else ({ t with counter := BitVec.ofNat 24 (n + 1) }, false) := by
  have hlt := t.interval.isLt
  have hne : t.interval ≠ 0 := by
    intro h
    simp [h] at hn
  have hcount : ((BitVec.ofNat 24 n).toNat + 1) % 2 ^ 24 = n + 1 := by
    rw [BitVec.toNat_ofNat]
    omega
  rw [timerClock_of_enabled (t := { t with counter := BitVec.ofNat 24 n }) henable]
  simp only [hcount, hne, ne_eq, not_false_eq_true, true_and]

include hcounter

/-- Below the interval the timer counts its clocks. -/
theorem timerAfter_of_lt {n : Nat} (hn : n < t.interval.toNat) : timerAfter n t = { t with counter := BitVec.ofNat 24 n } := by
  induction n with
  | zero =>
    cases t
    cases hcounter
    rfl
  | succ n ih =>
    rw [timerAfter_succ, ih (by omega), timerClock_of_count henable (by omega), if_neg (by omega)]

end

/-! ## The clocks on the Bus -/

theorem set_of_getElem? {ds : List Device} {k : Nat} {d : Device} (h : ds[k]? = some d) : ds.set k d = ds := by
  obtain ⟨hk, rfl⟩ := List.getElem?_eq_some_iff.1 h
  exact List.set_getElem_self hk

/-- A device without a clock of its own leaves the machine. -/
theorem clockOther_of_quiet {k : Nat} {d : Device} {s : State} (h : s.devices[k]? = some d) (hcpu : d ≠ .cpu)
    (htimer : ∀ start r, d ≠ .timer start r) (hother : ∀ range calls, d ≠ .other range calls) : clockOther k d s = s := by
  have quietly : clockOther k d s = afterAccess { devices := s.devices.set k d, io := s.io, requests := [] } s := by
    cases d with
    | cpu => exact absurd rfl hcpu
    | timer start r => exact absurd rfl (htimer start r)
    | other range calls => exact absurd rfl (hother range calls)
    | _ => rfl
  rw [quietly, set_of_getElem? h]
  rfl

/-- The timer's clock at its place. -/
theorem clockOther_timer {k : Nat} {start : Addr} {t : Timer} {s : State} (hf : s.fault = none) :
    clockOther k (.timer start t) s =
      { s with
        devices := s.devices.set k (.timer start (timerClock t).1)
        nmiPending := if (timerClock t).2 = true ∧ t.nmi = true then some (.device k) else s.nmiPending
        irqPending := if (timerClock t).2 = true ∧ t.nmi = false then some (.device k) else s.irqPending } := by
  simp only [clockOther, clockAccesses, deviceClock, afterAccess, hf]
  cases (timerClock t).2 <;> cases hn : t.nmi <;> simp [timerKind, hn, requestsFrom, latchAfter]

/-- Settles O27: by the timer's clock in numbers; on the Bus its request reaches the latch of its kind. -/
theorem timerPeriod : Obligations.TimerPeriod := by
  intro t
  refine ⟨fun henable hinterval hcounter => ⟨fun n hn => ?_, ?_⟩, timerClock_of_enabled, timerClock_of_disabled,
    timerClock_of_interval_zero, fun s k d hd hcpu htimer hother => ?_, fun s k start hf hd => ?_⟩
  · rw [timerAfter_of_lt henable hcounter hn, timerClock_of_count henable hn]
    refine ⟨rfl, ?_⟩
    split <;> simp [*]
  · obtain ⟨n, hn⟩ : ∃ n, t.interval.toNat = n + 1 :=
      Nat.exists_eq_succ_of_ne_zero fun h => hinterval (BitVec.eq_of_toNat_eq h)
    rw [hn, timerAfter_succ, timerAfter_of_lt henable hcounter (by omega), timerClock_of_count henable (by omega), if_pos hn.symm]
    cases t
    cases hcounter
    rfl
  · rw [clockDevice_of_other hd hcpu, clockOther_of_quiet hd hcpu htimer hother]
  · rw [clockDevice_of_other hd nofun, clockOther_timer hf]

end Sys2Proof.Machine
end

section
/-!
The contents of a memory device and the Bus: one canonical form for contents that read alike (60_exceptions.md R330), the first device
that answers a read and all that a write reaches (20_memory.md R55, R56).
-/

namespace Sys2Proof.Machine

open Sys2Proof.Claims

/-! ## One canonical form -/

/-- Where two canonical contents read alike at the first one's lowest address, the second does not begin above it. -/
theorem Memory.head_not_lt {j k : Nat} {u w : Byte} {m n : Memory} (hm : Memory.wf ((j, u) :: m) = true)
    (hn : Memory.wf ((k, w) :: n) = true) (h : Memory.read ((j, u) :: m) j = Memory.read ((k, w) :: n) j) : ¬ j < k := by
  intro hjk
  obtain ⟨hu, -, -⟩ := Memory.wf_cons.1 hm
  obtain ⟨-, hkn, -⟩ := Memory.wf_cons.1 hn
  have unlisted : Memory.read ((k, w) :: n) j = Memory.unlisted :=
    Memory.read_above ((Memory.above_cons j k w n).2 ⟨hjk, Memory.above_mono hkn hjk.le⟩)
  rw [unlisted, Memory.read_cons, if_pos rfl] at h
  exact hu h

/-- Canonical contents are known by what they read. -/
theorem Memory.eq_of_read {m n : Memory} (hm : m.wf = true) (hn : n.wf = true) (h : ∀ a, m.read a = n.read a) : m = n := by
  induction m generalizing n with
  | nil =>
    cases n with
    | nil => rfl
    | cons d n =>
      obtain ⟨k, w⟩ := d
      have hw := (Memory.wf_cons.1 hn).1
      exact absurd (by simpa [Memory.read_cons] using (h k).symm) hw
  | cons c m ih =>
    obtain ⟨j, u⟩ := c
    cases n with
    | nil =>
      have hu := (Memory.wf_cons.1 hm).1
      exact absurd (by simpa [Memory.read_cons] using h j) hu
    | cons d n =>
      obtain ⟨k, w⟩ := d
      obtain rfl : j = k :=
        Nat.le_antisymm (not_lt.1 (Memory.head_not_lt hn hm (h k).symm)) (not_lt.1 (Memory.head_not_lt hm hn (h j)))
      obtain rfl : u = w := by simpa [Memory.read_cons] using h j
      obtain ⟨-, hjm, hm'⟩ := Memory.wf_cons.1 hm
      obtain ⟨-, hjn, hn'⟩ := Memory.wf_cons.1 hn
      congr 1
      refine ih hm' hn' fun a => ?_
      by_cases ha : j = a
      · rw [← ha, Memory.read_above hjm, Memory.read_above hjn]
      · simpa [Memory.read_cons, ha] using h a

/-- Settles O31: the read after a write, and the one canonical form. -/
theorem memoryIsCanonical : Obligations.MemoryIsCanonical := fun m _ a b v =>
  ⟨by rw [Memory.read_write, if_pos rfl], fun hb => by rw [Memory.read_write, if_neg hb], Memory.wf_write a v,
    Memory.eq_of_read⟩

/-! ## The Bus -/

/-- The first matching device answers. -/
theorem busReadFrom_first (n : Nat) {before : List Device} (after : List Device) {d : Device} (io : HostIO) {a : Addr}
    (hbefore : ∀ e ∈ before, deviceContains e a = false) (hd : deviceContains d a = true) :
    busReadFrom n (before ++ d :: after) io a =
      ((deviceGet d a io).1,
        { devices := before ++ (deviceGet d a io).2.device :: after
          io := (deviceGet d a io).2.io
          requests := requestsFrom (n + before.length) (deviceGet d a io).2.requests }) := by
  induction before generalizing n with
  | nil => simp [busReadFrom, hd]
  | cons e before ih =>
    obtain ⟨he, hrest⟩ := List.forall_mem_cons.1 hbefore
    simp [busReadFrom, he, ih (n + 1) hrest, Nat.add_assoc, Nat.add_comm 1]

/-- A Bus read that no device matches is open bus. -/
theorem busReadFrom_none (n : Nat) {devices : List Device} (io : HostIO) {a : Addr}
    (h : ∀ e ∈ devices, deviceContains e a = false) :
    busReadFrom n devices io a = (0xFF, { devices := devices, io := io, requests := [] }) := by
  induction devices generalizing n with
  | nil => rfl
  | cons e devices ih =>
    obtain ⟨he, hrest⟩ := List.forall_mem_cons.1 h
    simp [busReadFrom, he, ih (n + 1) hrest]

/-- Settles O24: the search goes past the devices that do not match. -/
theorem busReadFirstMatch : Obligations.BusReadFirstMatch := by
  intro devices before after d io a
  refine ⟨fun hbefore hd => ?_, busReadFrom_none 0 io⟩
  simpa [busRead] using busReadFrom_first 0 after io hbefore hd

/-- A Bus write goes over one part of the list and then over the other. -/
theorem busWriteFrom_append (n : Nat) (devices more : List Device) (io : HostIO) (a : Addr) (v : Byte) :
    busWriteFrom n (devices ++ more) io a v =
      let first := busWriteFrom n devices io a v
      let second := busWriteFrom (n + devices.length) more first.io a v
      { devices := first.devices ++ second.devices, io := second.io, requests := first.requests ++ second.requests } := by
  induction devices generalizing n io with
  | nil => rfl
  | cons d devices ih => simp [busWriteFrom, ih, Nat.add_assoc, Nat.add_comm 1]

/-- A Bus write over one matching device is its `set`. -/
theorem busWriteFrom_singleton (n : Nat) {d : Device} (io : HostIO) {a : Addr} (v : Byte) (hd : deviceContains d a = true) :
    busWriteFrom n [d] io a v =
      { devices := [(deviceSet d a v io).device]
        io := (deviceSet d a v io).io
        requests := requestsFrom n (deviceSet d a v io).requests } := by
  simp [busWriteFrom, hd]

/-- A device with both ends of its range contains the addresses between them (R54). -/
theorem deviceContains_of_range {d : Device} {lo hi a : Addr} (h : deviceRange d = some (lo.toNat, hi.toNat)) (hlo : lo ≤ a)
    (hhi : a ≤ hi) : deviceContains d a = true := by
  simpa [deviceContains, h] using And.intro (BitVec.le_def.1 hlo) (BitVec.le_def.1 hhi)

/-- Settles O25: over the parts of the list, then each device by its place. -/
theorem busWriteEveryMatch : Obligations.BusWriteEveryMatch := by
  intro devices more io a v
  have place := busWriteFrom_getElem 0 devices io a v
  refine ⟨fun n => busWriteFrom_append n devices more io a v, fun n d hd => busWriteFrom_singleton n io v hd,
    busWrite_length devices io a v, fun k d hk => (place k d hk).1, fun k lo hi cells hk hlo hhi => ?_, fun k lo hi image hk => ?_,
    fun k lo hi calls hk hlo hhi => ?_, busWriteFrom_none 0 devices io a v⟩
  · obtain ⟨io', h⟩ := (place k _ hk).2 (deviceContains_of_range rfl hlo hhi)
    exact ⟨cells.write a.toNat v, h, by rw [Memory.read_write, if_pos rfl], fun b hb => by rw [Memory.read_write, if_neg hb]⟩
  · cases hc : deviceContains (.rom lo hi image) a with
    | false => exact (place k _ hk).1 hc
    | true =>
      obtain ⟨io', h⟩ := (place k _ hk).2 hc
      exact h
  · obtain ⟨io', h⟩ := (place k _ hk).2 (deviceContains_of_range rfl hlo hhi)
    exact h

end Sys2Proof.Machine
end

section
/-!
The registers of the timer (60_exceptions.md R332) and of the devices whose reads the host answers (R335 to R339).
-/

namespace Sys2Proof.Machine

open Sys2Proof.Claims

/-! ## Offsets (R53, R54) -/

theorem registerOffset_of_eq {start a : Addr} {k : Nat} (h : a.toNat = start.toNat + k) : registerOffset start a = k := by
  rw [registerOffset, h, Nat.add_sub_cancel_left]

/-- The range that begins at `start` and ends `n` later contains the offsets up to `n` (R54). -/
theorem deviceContains_iff_offset {d : Device} {start a : Addr} {n k : Nat}
    (hd : deviceRange d = some (start.toNat, start.toNat + n)) (h : a.toNat = start.toNat + k) :
    deviceContains d a = true ↔ k ≤ n := by
  simp [deviceContains, hd, h]

/-! ## The timer's registers -/

/-- Byte `k` of a 24-bit value in numbers. -/
theorem byteOf24_toNat (w : BitVec 24) (k : Nat) : (byteOf24 w k).toNat = w.toNat / 2 ^ (8 * k) % 2 ^ 8 := by
  simp [byteOf24, BitVec.extractLsb'_toNat, Nat.shiftRight_eq_div_pow]

/-- The three bytes of a 24-bit value make it up, low byte first. -/
theorem toNat_eq_byteOf24 (w : BitVec 24) :
    w.toNat = (byteOf24 w 0).toNat + 256 * (byteOf24 w 1).toNat + 65536 * (byteOf24 w 2).toNat := by
  have := w.isLt
  simp only [byteOf24_toNat]
  omega

/-- Three bytes put together, in numbers. -/
theorem append_append_toNat (b2 b1 b0 : Byte) :
    BitVec.toNat (w := 24) (b2 ++ b1 ++ b0) = 65536 * b2.toNat + 256 * b1.toNat + b0.toNat := by
  have h := BitVec.toNat_append (word b2 b1) b0
  rw [← Nat.shiftLeft_add_eq_or_of_lt b0.isLt, Nat.shiftLeft_eq, word_toNat] at h
  exact h.trans (by omega)

/-- The bytes of a value put together from three. -/
theorem byteOf24_append (b2 b1 b0 : Byte) :
    byteOf24 (b2 ++ b1 ++ b0) 0 = b0 ∧ byteOf24 (b2 ++ b1 ++ b0) 1 = b1 ∧ byteOf24 (b2 ++ b1 ++ b0) 2 = b2 := by
  have := b2.isLt
  have := b1.isLt
  have := b0.isLt
  refine ⟨?_, ?_, ?_⟩ <;> refine BitVec.eq_of_toNat_eq ?_ <;> rw [byteOf24_toNat, append_append_toNat] <;> omega

/-- A byte replaced is read back, and the other two are kept. -/
theorem byteOf24_setByteOf24 (w : BitVec 24) {k j : Nat} (hk : k ≤ 2) (hj : j ≤ 2) (b : Byte) :
    byteOf24 (setByteOf24 w k b) j = if j = k then b else byteOf24 w j := by
  have whole : ∃ b2 b1 b0, setByteOf24 w k b = b2 ++ b1 ++ b0 ∧ b0 = (if 0 = k then b else byteOf24 w 0) ∧
      b1 = (if 1 = k then b else byteOf24 w 1) ∧ b2 = (if 2 = k then b else byteOf24 w 2) := by
    interval_cases k <;> exact ⟨_, _, _, rfl, rfl, rfl, rfl⟩
  obtain ⟨b2, b1, b0, e, h0, h1, h2⟩ := whole
  obtain ⟨e0, e1, e2⟩ := byteOf24_append b2 b1 b0
  rw [e]
  interval_cases j
  · exact e0.trans h0
  · exact e1.trans h1
  · exact e2.trans h2

theorem timerControl_toNat (t : Timer) : (timerControl t).toNat = 2 * t.nmi.toNat + t.enable.toNat := by
  have bits : ∀ nmi enable : Bool,
      (0#6 ++ BitVec.ofBool nmi ++ BitVec.ofBool enable).toNat = 2 * nmi.toNat + enable.toNat := by decide
  exact bits t.nmi t.enable

/-- Bits 1 and 0 of a byte as the number they make. -/
theorem toNat_mod_four (v : Byte) : v.toNat % 4 = 2 * (v.getLsbD 1).toNat + (v.getLsbD 0).toNat := by
  revert v
  decide

/-- Settles O26: the control bits and the interval's bytes, each at its offset. -/
theorem timerRegisters : Obligations.TimerRegisters := by
  intro t v
  refine ⟨?_, rfl, rfl, rfl, ?_, fun k hk1 hk3 => ?_, toNat_eq_byteOf24 t.interval, fun start a k io h => ?_⟩
  · rw [toNat_mod_four]
    exact timerControl_toNat _
  · simp [timerSet]
  · obtain ⟨k, rfl⟩ := Nat.exists_eq_add_of_le' hk1
    have bytes := fun (j : Nat) (hj : j ≤ 2) => byteOf24_setByteOf24 t.interval (k := k) (by omega) hj v
    refine ⟨(bytes k (by omega)).trans (if_pos rfl), fun j hj hne => ?_, rfl, rfl⟩
    cases j with
    | zero => rfl
    | succ j => exact (bytes j (by omega)).trans (if_neg fun e => hne (congrArg (· + 1) e))
  · have offset := registerOffset_of_eq h
    refine ⟨deviceContains_iff_offset rfl h, ?_, ?_⟩
    · simp only [deviceGet, registerGet, offset]
    · simp only [deviceSet, offset]

/-! ## Reads that the host answers -/

section
variable {lo hi : Nat} (io : HostIO)

/-- A draw held to a range of bytes lies in it. -/
theorem drawBetween_bounds (h : lo ≤ hi ∧ hi < 2 ^ 8 := by decide) :
    lo ≤ (drawBetween lo hi io).1.toNat ∧ (drawBetween lo hi io).1.toNat ≤ hi := by
  simp only [drawBetween]
  split
  case isTrue hv => exact hv
  case isFalse =>
    have := Nat.mod_lt (draw io).1.toNat (show 0 < hi + 1 - lo by omega)
    rw [BitVec.toNat_ofNat, Nat.mod_eq_of_lt (by omega)]
    omega

/-- A draw inside the range is taken as it is. -/
theorem drawBetween_of_mem (hlo : lo ≤ (draw io).1.toNat) (hhi : (draw io).1.toNat ≤ hi) :
    (drawBetween lo hi io).1 = (draw io).1 := if_pos ⟨hlo, hhi⟩

end

/-- Each register of the clock is one draw (R335). -/
theorem rtcGet_snd (k : Nat) (io : HostIO) : (rtcGet k io).2 = (draw io).2 := by
  unfold rtcGet
  split <;> rfl

theorem loByte_eq (w : Addr) : loByte w = BitVec.ofNat 8 w.toNat :=
  BitVec.eq_of_toNat_eq (by rw [loByte_toNat, BitVec.toNat_ofNat])

/-- Settles O29: every register by its offset; the clock's ranges are those of its draws. -/
theorem hostAnsweredReads : Obligations.HostAnsweredReads := by
  intro start a v io drawn
  refine ⟨rfl, rfl, fun k h => ?_, rfl, rfl, rfl, draw_events io, drawBetween_bounds io,
    drawBetween_bounds io, (drawBetween_bounds io).2,
    (drawBetween_bounds io).2, (drawBetween_bounds io).2,
    (drawBetween_bounds io).2, ?_, fun hlo hhi rest hanswers => ?_⟩
  · have offset := registerOffset_of_eq h
    refine ⟨(deviceContains_iff_offset rfl h).trans Nat.le_zero, deviceContains_iff_offset rfl h, deviceContains_iff_offset rfl h,
      ?_, fun data => ⟨deviceContains_iff_offset rfl h, ?_⟩, fun d => ⟨deviceContains_iff_offset rfl h, ?_⟩⟩
    · simp only [deviceGet, registerGet, offset, rtcGet_snd]
    · simp only [deviceGet, registerGet, offset]
      split <;> rfl
    · simp only [deviceGet, registerGet, offset, displayGet, hiByte_eq, loByte_eq]
      match k with
      | 0 | 1 | 2 | 3 | 4 | 5 | 6 | 7 | 8 | 9 => rfl
      | _ + 10 => rfl
  · intro k hk
    simp only [List.mem_cons, List.not_mem_nil, or_false] at hk
    rcases hk with rfl | rfl | rfl <;> rfl
  · have hdraw : (draw io).1 = v := by simp [draw, hanswers]
    rw [← hdraw] at hlo hhi ⊢
    exact drawBetween_of_mem io hlo hhi

end Sys2Proof.Machine
end

section
/-!
The stack, operand resolution, the stores and the jumps (20_memory.md R65 to R67, 30_encoding.md R95 to R97, 40_load_store.md R134 to
R137, 44_control.md R240 to R242): addresses in numbers, and each instruction as the shared operation it is.
-/

namespace Sys2Proof.Machine

open Sys2Proof.Claims

/-! ## The stack -/

theorem stackAddr_eq (sp : Byte) : stackAddr sp = BitVec.ofNat 16 (256 + sp.toNat) := by
  refine BitVec.eq_of_toNat_eq ?_
  rw [stackAddr_toNat, BitVec.toNat_ofNat]
  omega

theorem byte_sub_one (sp : Byte) : sp - 1 = BitVec.ofNat 8 (sp.toNat + 255) := by
  bv_omega

theorem byte_add_one (sp : Byte) : sp + 1 = BitVec.ofNat 8 (sp.toNat + 1) := by
  bv_omega

/-- The stack wraps in page 1 (R67). -/
theorem stackAddr_add_one (sp : Byte) : stackAddr (sp + 1) = BitVec.ofNat 16 (256 + (sp.toNat + 1) % 256) := by
  rw [stackAddr_eq, BitVec.toNat_add]
  rfl

/-- A pull right after a push on RAM gives the byte back. -/
theorem pull_push {s : State} (v : Byte) (h : RamAt s.devices (stackAddr s.sp)) :
    pull (push v s) = (v, { push v s with sp := s.sp }) := by
  have back : (push v s).sp + 1 = s.sp := by
    rw [push_sp]
    bv_omega
  have held : memoryByte (push v s).devices (stackAddr ((push v s).sp + 1)) = some v := by
    rw [back]
    exact memoryByte_push_same v h
  rw [pull_of_memoryByte held, back]

/-- Settles O32: push and pull are one Bus access each, with SP in numbers. -/
theorem stackPushAndPull : Obligations.StackPushAndPull := by
  intro s v
  obtain ⟨hpush, epush⟩ := push_frame v s
  obtain ⟨hpull, epull⟩ := pull_frame s
  rw [← stackAddr_eq, ← byte_sub_one, ← byte_add_one, ← stackAddr_add_one]
  exact ⟨rfl, rfl, push_storesAt v s, hpush, epush, pull_fst s, hpull, epull, pull_storesNothing s,
    fun h => by rw [pull_push v h]; exact ⟨rfl, rfl⟩⟩

/-! ## Operand resolution -/

theorem zext16_add (z r : Byte) : zext16 (z + r) = BitVec.ofNat 16 ((z.toNat + r.toNat) % 256) := by
  rw [zext16_eq, BitVec.toNat_add]

theorem zext16_add_one (z : Byte) : zext16 (z + 1) = BitVec.ofNat 16 ((z.toNat + 1) % 256) := zext16_add z 1

theorem zext16_add_add_one (z r : Byte) : zext16 (z + r + 1) = BitVec.ofNat 16 ((z.toNat + r.toNat + 1) % 256) := by
  rw [zext16_add_one, BitVec.toNat_add]
  congr 1
  omega

theorem add_zext16 (a : Addr) (r : Byte) : a + zext16 r = BitVec.ofNat 16 (a.toNat + r.toNat) := by
  simp [zext16_eq, BitVec.ofNat_add]

theorem addr_add_one (a : Addr) : a + 1 = BitVec.ofNat 16 (a.toNat + 1) := by
  bv_omega

theorem word_add_zext16 (hi lo r : Byte) :
    word hi lo + zext16 r = BitVec.ofNat 16 (256 * hi.toNat + lo.toNat + r.toNat) := by
  rw [add_zext16, word_toNat]

/-- The Indirect mode's second byte is in the pointer's own page (R95). -/
theorem word_hiByte_loByte_add_one (a : Addr) :
    word (hiByte a) (loByte a + 1) = BitVec.ofNat 16 (256 * (a.toNat / 256) + (a.toNat + 1) % 256) := by
  rw [word_eq, hiByte_toNat, BitVec.toNat_add, loByte_toNat]
  congr 2
  exact Nat.mod_add_mod _ _ _

/-- Settles O33: each mode's address in numbers. -/
theorem operandResolution : Obligations.OperandResolution := by
  intro s z d a
  rw [← zext16_eq, ← zext16_add, ← zext16_add, ← add_zext16, ← add_zext16, ← zext16_add_add_one, ← zext16_add_one, ← addr_add_one,
    ← word_hiByte_loByte_add_one]
  exact ⟨rfl, rfl, rfl, rfl, rfl, rfl, ⟨_, _, rfl, rfl, Prod.ext (word_eq _ _) rfl⟩,
    ⟨_, _, rfl, rfl, Prod.ext (word_add_zext16 _ _ _) rfl⟩, ⟨_, _, rfl, rfl, Prod.ext (word_eq _ _) rfl⟩,
    ⟨_, _, rfl, rfl, Prod.ext (word_eq _ _) rfl⟩, add_sext8 s.pc d, rfl, fun m => ⟨rfl, rfl⟩⟩

/-! ## Stores -/

theorem store_frame (m : Mem) (v : Byte) (s : State) :
    Registers (store m v s) s.a s.x s.y s.sp s.pc s.p ∧ SameEngine s (store m v s) := by
  simp [Registers, SameEngine]

/-- Settles O36: each is the one store of R96. -/
theorem storeInstructions : Obligations.StoreInstructions := by
  intro dst s ea i v h
  obtain ⟨hr, he⟩ := store_frame dst v s
  refine ⟨store dst v s, ?_, hr, he, store_storesAt dst v s⟩
  rcases h with ⟨rfl, rfl⟩ | ⟨rfl, rfl⟩ | ⟨rfl, rfl⟩ | ⟨rfl, rfl⟩ <;> rfl

/-! ## Jumps -/

/-- What two pushes leave in memory: the bytes in RAM, and everything else. -/
theorem memoryByte_push_push (s : State) (u v : Byte) :
    (∀ a, a ≠ stackAddr s.sp → a ≠ stackAddr (s.sp - 1) → memoryByte (push v (push u s)).devices a = memoryByte s.devices a) ∧
    (RamAt s.devices (stackAddr s.sp) → memoryByte (push v (push u s)).devices (stackAddr s.sp) = some u) ∧
    (RamAt s.devices (stackAddr (s.sp - 1)) → memoryByte (push v (push u s)).devices (stackAddr (s.sp - 1)) = some v) := by
  have distinct : stackAddr s.sp ≠ stackAddr (push u s).sp := fun h => absurd (stackAddr_inj h) (by rw [push_sp]; bv_omega)
  exact ⟨fun a h0 h1 => (memoryByte_push_other v h1).trans (memoryByte_push_other u h0),
    fun h => (memoryByte_push_other v distinct).trans (memoryByte_push_same u h),
    fun h => memoryByte_push_same v (ramAt_push u h)⟩

/-- Settles O53: a new PC after the pointer's reads, two pushes or two pulls. -/
theorem jumpInstructions : Obligations.JumpInstructions := by
  intro s target
  refine ⟨⟨_, rfl, ⟨rfl, rfl, rfl, rfl, rfl, rfl⟩, sameEngine_refl s, readsOnly_of (.refl s) ⟨rfl, rfl, rfl, rfl⟩⟩,
    ⟨_, rfl, ⟨rfl, rfl, rfl, rfl, rfl, rfl⟩, sameEngine_refl s,
      readsOnly_of (indirectTarget_storesNothing target s) ⟨rfl, rfl, rfl, rfl⟩⟩, ?_, ?_⟩
  · have hsp : s.sp - 1 - 1 = s.sp - 2 := by bv_omega
    have hpc : (s.pc - 1).toNat = (s.pc.toNat + 65535) % 65536 := by bv_omega
    have hhi : hiByte (s.pc - 1) = BitVec.ofNat 8 ((s.pc.toNat + 65535) % 65536 / 256) := by rw [hiByte_eq, hpc]
    have hlo : loByte (s.pc - 1) = BitVec.ofNat 8 ((s.pc.toNat + 65535) % 256) := BitVec.eq_of_toNat_eq (by
      rw [loByte_toNat, hpc, BitVec.toNat_ofNat]
      omega)
    rw [← hhi, ← hlo]
    obtain ⟨hother, hfirst, hsecond⟩ := memoryByte_push_push s (hiByte (s.pc - 1)) (loByte (s.pc - 1))
    exact ⟨_, rfl, ⟨rfl, rfl, rfl, hsp, rfl, rfl⟩, sameEngine_refl s, hother, hfirst, hsecond, rfl, rfl, rfl, rfl⟩
  · have hsp : s.sp + 2 = s.sp + 1 + 1 := by bv_omega
    rw [hsp]
    refine ⟨_, _, _, rfl, rfl, rfl, ⟨rfl, rfl, rfl, rfl, ?_, rfl⟩, sameEngine_refl s,
      readsOnly_of (pullWord_storesNothing s) ⟨rfl, rfl, rfl, rfl⟩⟩
    rw [← word_toNat, ← addr_add_one]
    rfl

end Sys2Proof.Machine
end

section
/-!
The Bus reset that gives `State.reset` (70_reset_and_hazards.md R370, R372), and what an interrupt request leaves, the host's or one
from inside a device's call (60_exceptions.md R302 to R308).
-/

namespace Sys2Proof.Machine

open Sys2Proof.Claims

/-! ## Reset -/

/-- Settles O7: with the configuration, the devices and the three draws given, every field of the reset computes. -/
theorem stateResetIsBusReset : Obligations.StateResetIsBusReset := by
  intro s hcfg hdevices hio
  obtain ⟨cfg, a, x, y, sp, pc, p, instrCycles, totalCycles, nmi, irq, run, fault, devices, io, calls⟩ := s
  dsimp only at hcfg hdevices hio
  subst hcfg hdevices hio
  rfl

/-! ## Requests -/

theorem eligible_eq_nmi_iff (s : State) : eligible s = some .nmi ↔ s.nmiPending ≠ none := by
  unfold eligible
  cases s.nmiPending with
  | some h => simp
  | none => simp

/-- The latch of NMI is looked at first (R302). -/
theorem eligible_eq_irq_iff (s : State) :
    eligible s = some .irq ↔ s.nmiPending = none ∧ s.irqPending ≠ none ∧ s.p.i = false := by
  unfold eligible
  cases s.nmiPending with
  | some h => simp
  | none => simp [Option.isSome_iff_ne_none]

/-- A request to a CPU without a fault sets the latch of its kind (R303). -/
theorem request_of_no_fault {s : State} (h : Handle) (hf : s.fault = none) :
    request .nmi h s = { s with nmiPending := some h } ∧ request .irq h s = { s with irqPending := some h } := by
  simp [request, latchAfter, hf]

theorem draw_of_answers {io : HostIO} {v : Byte} {rest : List Byte} (h : io.answers = v :: rest) :
    draw io = (v, { io with answers := rest }) := by
  simp [draw, h]

/-- A Bus write that one device matches is its `set`, at its place. -/
theorem busWriteFrom_only (n : Nat) {before after : List Device} {d : Device} (io : HostIO) {a : Addr} (v : Byte)
    (hbefore : ∀ e ∈ before, deviceContains e a = false) (hd : deviceContains d a = true)
    (hafter : ∀ e ∈ after, deviceContains e a = false) :
    busWriteFrom n (before ++ d :: after) io a v =
      { devices := before ++ (deviceSet d a v io).device :: after
        io := (deviceSet d a v io).io
        requests := requestsFrom (n + before.length) (deviceSet d a v io).requests } := by
  rw [busWriteFrom_append, busWriteFrom_none n before io a v hbefore]
  simp [busWriteFrom, hd, busWriteFrom_none _ after _ a v hafter]

section
variable {s : State} {before after : List Device} {range : Option (Addr × Addr)} {calls : List DeviceCall} {asked : Byte}
  {rest : List Byte} (hf : s.fault = none) (hs : s.devices = before ++ .other range calls :: after)
include hf

/-- The requests of a device of R308 reach the latches under its place, and nothing else changes. -/
theorem afterAccess_other (c : DeviceCall) :
    afterAccess
        { devices := before ++ .other range (c :: calls) :: after
          io := { s.io with answers := rest }
          requests := requestsFrom before.length (requestsOf asked) } s =
      afterOtherCall s before after range (c :: calls) asked rest := by
  obtain ⟨hnmi, hirq⟩ := latchAfter_requestsOf before.length asked s.nmiPending s.irqPending
  simp only [afterAccess, afterOtherCall, hf, Option.isSome_none, hnmi, hirq]

include hs

/-- A device of R308 answers a CPU read with the byte drawn first, then draws its requests. -/
theorem memRead_other {a : Addr} {v : Byte} (hbefore : ∀ e ∈ before, deviceContains e a = false)
    (hd : deviceContains (.other range calls) a = true) (hio : s.io.answers = v :: asked :: 0 :: rest) :
    memRead s a = (v, afterOtherCall s before after range (.get a :: calls) asked rest) := by
  have hget : deviceGet (.other range calls) a s.io =
      (v, otherCall range calls (.get a) { s.io with answers := asked :: 0 :: rest }) := by
    simp only [deviceGet, registerGet, draw_of_answers hio]
  rw [memRead, busRead, hs, busReadFrom_first 0 after s.io hbefore hd, hget, otherCall_of_answers range calls (.get a) rfl]
  exact Prod.ext rfl (by simpa using afterAccess_other hf (.get a))

/-- The same device is reached by a CPU write. -/
theorem memWrite_other {a : Addr} (v : Byte) (hbefore : ∀ e ∈ before, deviceContains e a = false)
    (hd : deviceContains (.other range calls) a = true) (hafter : ∀ e ∈ after, deviceContains e a = false)
    (hio : s.io.answers = asked :: 0 :: rest) :
    memWrite s a v = afterOtherCall s before after range (.set a v :: calls) asked rest := by
  rw [memWrite, busWrite, hs, busWriteFrom_only 0 s.io v hbefore hd hafter, deviceSet, otherCall_of_answers range calls _ hio]
  simpa using afterAccess_other hf (.set a v)

/-- In its clock it also draws how many Bus accesses of its own to make, here none. -/
theorem clockDevice_other (hio : s.io.answers = asked :: 0 :: 0 :: rest) :
    clockDevice before.length s = .next (afterOtherCall s before after range (.clock :: calls) asked rest) := by
  have hplace : s.devices[before.length]? = some (.other range calls) := by simp [hs]
  rw [clockDevice_of_other hplace nofun, clockOther, deviceClock, otherCall_of_answers range calls .clock hio]
  have hset : s.devices.set before.length (.other range (.clock :: calls)) = before ++ .other range (.clock :: calls) :: after := by
    simp [hs]
  simp only [hset]
  rw [afterAccess_other hf .clock (rest := 0 :: rest)]
  rfl

end

/-- Settles O15: the fetch boundary's tests, the host's request, and the three calls of a device of R308. -/
theorem eligibilityAndRequests : Obligations.EligibilityAndRequests :=
  ⟨fun s h => ⟨eligible_eq_nmi_iff s, eligible_eq_irq_iff s, request_of_no_fault h⟩,
    fun _ _ _ _ _ _ v _ _ hf hs => ⟨memRead_other hf hs, memWrite_other hf hs v, clockDevice_other hf hs⟩⟩

end Sys2Proof.Machine
end

section
/-!
The step that runs the instruction whose bytes stand at PC (20_memory.md R57, 60_exceptions.md R300, R301).
-/

namespace Sys2Proof.Machine

open Sys2Proof.Claims

/-! ## The bytes at PC -/

/-- Bytes stand from an address on where the first does, and the others from the next address on. -/
theorem bytesAt_cons {devices : List Device} {a : Addr} {b : Byte} {bytes : List Byte} (h : BytesAt devices a (b :: bytes)) :
    memoryByte devices a = some b ∧ BytesAt devices (a + 1) bytes := by
  refine ⟨by simpa using h 0 b rfl, fun k c hk => ?_⟩
  have next : a + BitVec.ofNat 16 (k + 1) = a + 1 + BitVec.ofNat 16 k := by
    rw [Nat.add_comm, BitVec.ofNat_add, BitVec.add_assoc]
    rfl
  exact next ▸ h (k + 1) c hk

theorem fetch_of_memoryByte {s : State} {v : Byte} (h : memoryByte s.devices s.pc = some v) :
    fetch s = (v, { s with pc := s.pc + 1 }) := by
  simp only [fetch, memRead_of_memoryByte h]

/-- The operand bytes of a decoded instruction are fetched from memory, and make it (R94, R105). -/
theorem fetchOperands_of_decode {v : Variant} {op : Byte} {operands : List Byte} {i : Instr} {s : State}
    (hbytes : BytesAt s.devices s.pc operands) (hdecode : decode v (op :: operands) = .ok (i, [])) :
    ∃ b1 b2, fetchOperands (operandCount v op) s = ((b1, b2), { s with pc := s.pc + BitVec.ofNat 16 operands.length }) ∧
      assemble v op b1 b2 = i := by
  simp only [decode] at hdecode
  split at hdecode
  case h_1 hcount =>
    cases hdecode
    exact ⟨0, 0, by simp [hcount, fetchOperands], rfl⟩
  case h_2 b1 rest hcount =>
    cases hdecode
    obtain ⟨h1, -⟩ := bytesAt_cons hbytes
    exact ⟨b1, 0, by simp [hcount, fetchOperands, fetch_of_memoryByte h1], rfl⟩
  case h_3 b1 b2 rest hcount =>
    cases hdecode
    obtain ⟨h1, hrest⟩ := bytesAt_cons hbytes
    obtain ⟨h2, -⟩ := bytesAt_cons hrest
    have second : fetch { s with pc := s.pc + 1 } = (b2, { s with pc := s.pc + 1 + 1 }) := fetch_of_memoryByte h2
    have twice : s.pc + 1 + 1 = s.pc + BitVec.ofNat 16 2 := by bv_omega
    refine ⟨b1, b2, ?_, rfl⟩
    simp only [hcount, fetchOperands, fetch_of_memoryByte h1, second, twice]
    rfl
  case h_4 => cases hdecode

/-- At a fetch boundary without an interrupt or a breakpoint, the opcode at PC is dispatched (R301). -/
theorem fetchBoundary_of_opcode {s : State} {op : Byte} (helig : eligible s = none) (hbreak : s.pc ∉ s.cfg.breakpoints)
    (hop : memoryByte s.devices s.pc = some op) : fetchBoundary s = dispatch op s := by
  have fetched : fetchOpcode s.cfg.maxRedirects s = .opcode op s := by
    unfold fetchOpcode
    simp [hbreak, memRead_of_memoryByte hop]
  simp only [fetchBoundary, helig, fetched]

/-- An opcode that is no fault slot and no stop runs the instruction its bytes decode to, with PC past them (R301). -/
theorem dispatch_of_decode {s : State} {op : Byte} {operands : List Byte} {i : Instr} (hslot : isFaultSlot s.cfg.variant op = false)
    (hstop : s.cfg.brkIsStop = true → op ≠ 0x00) (hbytes : BytesAt s.devices (s.pc + 1) operands)
    (hdecode : decode s.cfg.variant (op :: operands) = .ok (i, [])) :
    i.isFault = false ∧ dispatch op s =
      andThen
        (exec i
          { s with
            pc := s.pc + BitVec.ofNat 16 (1 + operands.length)
            instrCycles := baseCycles s.cfg.variant op })
        endCycle := by
  obtain ⟨b1, b2, hfetch, hi⟩ := fetchOperands_of_decode (s := charge op s) hbytes hdecode
  have runs : (s.cfg.brkIsStop && op == 0x00) = false := by simpa using hstop
  have past : s.pc + 1 + BitVec.ofNat 16 operands.length = s.pc + BitVec.ofNat 16 (1 + operands.length) := by
    rw [BitVec.ofNat_add, BitVec.add_assoc]
    rfl
  refine ⟨hi ▸ (assemble_builds hslot b1 b2).1, ?_⟩
  simp only [dispatch, hslot, runs, hfetch, hi, Bool.false_eq_true, if_false]
  simp only [charge, past]

/-! ## The clocks of a step -/

/-- A call that got through some places without a fault goes on with the others. -/
theorem clockDevices_append {places rest : List Nat} {s t : State} (h : clockDevices places s = .next t) (hf : t.fault = none) :
    clockDevices (places ++ rest) s = clockDevices rest t := by
  induction places generalizing s with
  | nil =>
    cases h
    rfl
  | cons k places ih =>
    obtain ⟨u, hu⟩ := clockDevice_completes k s
    simp only [clockDevices, hu, List.cons_append] at h ⊢
    split at h
    case isTrue hfault =>
      cases h
      simp [hf] at hfault
    case isFalse hfault => rw [if_neg hfault, ih h]

/-- Where the devices before the CPU have been clocked to `t`, the step goes on at the CPU of `t`. -/
theorem step_of_clocked {s t : State} {before after : List Device} (hok : configOk s = true) (hf : s.fault = none)
    (hs : s.devices = before ++ .cpu :: after)
    (ht : clockDevices (List.range before.length) { s with clockCalls := s.clockCalls + 1 } = .next t) :
    t.fault = none ∧ clockDevice before.length t = cpuClock t ∧
      step s = clockDevices (before.length :: List.range' (before.length + 1) after.length) t := by
  have hcpu : s.devices[before.length]? = some .cpu := by simp [hs]
  have others : ∀ k ∈ List.range before.length, s.devices[k]? ≠ some .cpu := fun k hk he => by
    have := cpu_unique ((configOk_iff s).1 hok).2.1 he hcpu
    have := List.mem_range.1 hk
    omega
  have passive : Passive { s with clockCalls := s.clockCalls + 1 } t := by
    obtain ⟨u, hu, e⟩ := clockDevices_passive (s := { s with clockCalls := s.clockCalls + 1 }) hf others []
    rw [List.append_nil, ht] at e
    cases e
    exact hu
  have places : List.range s.devices.length =
      List.range before.length ++ before.length :: List.range' (before.length + 1) after.length := by
    rw [hs, List.length_append, List.length_cons, List.range_eq_range', List.range_eq_range', ← List.range'_append_1, Nat.zero_add,
      List.range'_succ]
  have hft : t.fault = none := passive.fault.trans hf
  refine ⟨hft, ?_, by rw [step_of_configOk hok hf, places, clockDevices_append ht hft]⟩
  rw [clockDevice, (passive.devices.cpu_iff _).2 hcpu]

/-- Settles O12: the CPU's clock runs the instruction without a fault, and the call goes on with the devices after it. -/
theorem stepRunsDecodedInstruction : Obligations.StepRunsDecodedInstruction := by
  intro s s1 before after op operands i hok hf hs hbefore hrun hcycles helig hbreak hstop hbytes hdecode hslot
  obtain ⟨hf1, hcpu, hstep⟩ := step_of_clocked hok hf hs hbefore
  obtain ⟨hop, hrest⟩ := bytesAt_cons hbytes
  obtain ⟨hplain, hdispatch⟩ := dispatch_of_decode hslot hstop hrest hdecode
  obtain ⟨t, ht⟩ := exec_completes i
    { s1 with pc := s1.pc + BitVec.ofNat 16 (1 + operands.length), instrCycles := baseCycles s1.cfg.variant op }
  have hft : t.fault = none := by
    obtain ⟨-, -, -, hfault⟩ := exec_engine ht
    refine (hfault fun o => ⟨?_, ?_⟩).trans hf1 <;> rintro rfl <;> cases hplain
  have clocked : clockDevice before.length s1 = .next (endCycle t) :=
    calc clockDevice before.length s1
      _ = cpuClock s1 := hcpu
      _ = fetchBoundary s1 := by simp only [cpuClock, hrun, normalClock, hcycles, if_true]
      _ = .next (endCycle t) := by rw [fetchBoundary_of_opcode helig hbreak hop, hdispatch, ht, andThen]
  refine ⟨t, ht, ?_⟩
  change step s = clockDevices _ (endCycle t)
  simp only [hstep, clockDevices, clocked, endCycle_fault, hft, Option.isSome_none, Bool.false_eq_true, if_false]

end Sys2Proof.Machine
end

section
/-!
The opcodes of the descriptor tables (30_encoding.md R92, R98 to R103): no two rows share one, and a variant's rows and its listed fault
slots are the 256 bytes between them.
-/

namespace Sys2Proof

/-! ## Sets of opcodes -/

/-- The opcodes of a list as the bits of one number: a table is looked through once, not once for every byte. -/
def opcodeMask (l : List Byte) : Nat := l.foldr (fun op m => 2 ^ op.toNat ||| m) 0

@[simp] theorem opcodeMask_nil : opcodeMask [] = 0 := rfl

@[simp] theorem opcodeMask_cons (op : Byte) (l : List Byte) : opcodeMask (op :: l) = 2 ^ op.toNat ||| opcodeMask l := rfl

theorem opcodeMask_append (l m : List Byte) : opcodeMask (l ++ m) = opcodeMask l ||| opcodeMask m := by
  induction l with
  | nil => simp
  | cons op l ih => simp [ih, Nat.or_assoc]

theorem testBit_opcodeMask (l : List Byte) (op : Byte) : (opcodeMask l).testBit op.toNat = decide (op ∈ l) := by
  induction l with
  | nil => simp
  | cons o l ih =>
    have same : o.toNat = op.toNat ↔ op = o := by rw [BitVec.toNat_inj, eq_comm]
    simp [Nat.testBit_two_pow, same, ih]

theorem mem_iff_of_opcodeMask_eq {l m : List Byte} (h : opcodeMask l = opcodeMask m) (op : Byte) : op ∈ l ↔ op ∈ m := by
  rw [← decide_eq_decide, ← testBit_opcodeMask, ← testBit_opcodeMask, h]

/-- Two lists whose bits differ in all 256 places list every byte once between them. -/
theorem mem_iff_of_opcodeMask_xor {l m : List Byte} (h : opcodeMask l ^^^ opcodeMask m = 2 ^ 256 - 1) (op : Byte) :
    op ∈ l ↔ op ∉ m := by
  have differ : (decide (op ∈ l) ^^ decide (op ∈ m)) = true := by
    rw [← testBit_opcodeMask, ← testBit_opcodeMask, ← Nat.testBit_xor, h, Nat.testBit_two_pow_sub_one]
    exact decide_eq_true op.isLt
  exact (not_iff_comm.1 (not_iff.1 (by simpa using differ))).symm

/-! ## Rows and fault slots -/

/-- The fault slots of a variant, R101 to R103. -/
def faultSlots (v : Variant) : List Byte := (if v = .nmos then jamSlots else []) ++ notImplementedSlots v

theorem mem_faultSlots (v : Variant) (op : Byte) :
    op ∈ faultSlots v ↔ (v = .nmos ∧ op ∈ jamSlots) ∨ op ∈ notImplementedSlots v := by
  cases v <;> simp [faultSlots]

theorem opcodes_xor_faultSlots (v : Variant) :
    opcodeMask ((descriptorTable v).map Descriptor.opcode) ^^^ opcodeMask (faultSlots v) = 2 ^ 256 - 1 := by
  cases v with
  | nmos =>
    simp only [descriptorTable, nmosTable, faultSlots, if_true, notImplementedSlots, nmosNotImplemented, List.map_append,
      opcodeMask_append]
    decide
  | cmos =>
    simp only [descriptorTable, nmosTable, cmosTable, faultSlots, notImplementedSlots, cmosNotImplemented, List.map_append,
      opcodeMask_append]
    decide

theorem isFaultSlot_iff_not_mem (v : Variant) (op : Byte) :
    isFaultSlot v op = true ↔ op ∉ (descriptorTable v).map Descriptor.opcode := by
  simp [isFaultSlot, lookup]

/-- The slots without a descriptor are the listed ones (R101 to R103). -/
theorem isFaultSlot_iff (v : Variant) (op : Byte) :
    isFaultSlot v op = true ↔ (v = .nmos ∧ op ∈ jamSlots) ∨ op ∈ notImplementedSlots v := by
  rw [isFaultSlot_iff_not_mem, mem_iff_of_opcodeMask_xor (opcodes_xor_faultSlots v), not_not, mem_faultSlots]

theorem not_jam_of_notImplemented {v : Variant} {op : Byte} (h : op ∈ notImplementedSlots v) : ¬(v = .nmos ∧ op ∈ jamSlots) := by
  have jam : opcodeMask jamSlots ^^^ opcodeMask (nmosTable.map Descriptor.opcode ++ nmosNotImplemented) = 2 ^ 256 - 1 := by
    simp only [nmosTable, nmosNotImplemented, List.map_append, opcodeMask_append]
    decide
  rintro ⟨rfl, hjam⟩
  exact (mem_iff_of_opcodeMask_xor jam op).1 hjam (List.mem_append_right _ h)

/-! ## No two rows share an opcode -/

theorem nmosTable_increasing : nmosTable.IsChain (fun d e => d.opcode < e.opcode) := by
  simp only [nmosTable, List.isChain_append]
  decide

theorem cmosTable_increasing : cmosTable.IsChain (fun d e => d.opcode < e.opcode) := by
  decide

/-- The CMOS table substitutes fault slots of the NMOS table (R99). -/
theorem cmosTable_substitutes : ∀ e ∈ cmosTable, e.opcode ∈ nmosNotImplemented := by
  decide

theorem opcodes_nodup (v : Variant) : ((descriptorTable v).map Descriptor.opcode).Nodup := by
  have distinct : ∀ {table : List Descriptor}, table.IsChain (fun d e => d.opcode < e.opcode) →
      (table.map Descriptor.opcode).Nodup :=
    fun h => (List.isChain_iff_pairwise.1 ((List.isChain_map _).2 h)).imp BitVec.ne_of_lt
  cases v with
  | nmos => exact distinct nmosTable_increasing
  | cmos =>
    rw [descriptorTable, List.map_append]
    refine (distinct nmosTable_increasing).append (distinct cmosTable_increasing) fun op hn hc => ?_
    obtain ⟨e, he, rfl⟩ := List.mem_map.1 hc
    exact (isFaultSlot_iff_not_mem .nmos _).1 ((isFaultSlot_iff .nmos _).2 (.inr (cmosTable_substitutes e he))) hn

/-- The descriptor of an opcode is the row that has it. -/
theorem lookup_eq_some_iff {v : Variant} {op : Byte} {d : Descriptor} :
    lookup v op = some d ↔ d ∈ descriptorTable v ∧ d.opcode = op := by
  refine ⟨fun h => ⟨List.mem_of_find?_eq_some h, by simpa using List.find?_some h⟩, ?_⟩
  rintro ⟨hd, rfl⟩
  obtain ⟨e, he⟩ : ∃ e, lookup v d.opcode = some e :=
    Option.isSome_iff_exists.1 (List.find?_isSome.2 ⟨d, hd, beq_self_eq_true _⟩)
  have hop : e.opcode = d.opcode := by simpa using List.find?_some he
  rw [he, List.inj_on_of_nodup_map (opcodes_nodup v) (List.mem_of_find?_eq_some he) hd hop]

end Sys2Proof
end

section
/-!
The decoder against the encoder (30_encoding.md R92, R93, R98 to R105): whatever an opcode assembles is an instruction of the variant
whose bytes are that opcode and the operand bytes looked at, and every instruction of the variant is assembled so.
-/

namespace Sys2Proof

open Machine (word hiByte loByte)
open Claims

/-! ## What a row makes of its operand bytes -/

/-- The operand bytes as the encoder writes them: an address as its low and its high byte (R61). -/
def Shape.encoded : Shape → Byte → Byte → List Byte
  | .none _, _, _ => []
  | .byte _, b1, _ => [b1]
  | .address _, b1, b2 => [loByte (word b2 b1), hiByte (word b2 b1)]
  | .twoBytes _, b1, b2 => [b1, b2]

theorem Shape.encoded_eq (s : Shape) (b1 b2 : Byte) : s.encoded b1 b2 = [b1, b2].take s.operands := by
  cases s with
  | address f => simp [encoded, operands]
  | _ => rfl

/-- What a row of the variant's table makes of any operand bytes is an instruction of the variant with these bytes. -/
def Descriptor.Sound (v : Variant) (d : Descriptor) : Prop :=
  ∀ b1 b2, (d.shape.build b1 b2).wellFormed = true ∧ (d.shape.build b1 b2).inVariant v = true ∧
    (d.shape.build b1 b2).encode = d.opcode :: d.shape.encoded b1 b2

theorem nmosTable_sound (v : Variant) : ∀ d ∈ nmosTable, d.Sound v := by
  unfold nmosTable nmosTable0 nmosTable4 nmosTable8 nmosTableC
  repeat refine List.forall_mem_cons.2 ⟨fun _ _ => ⟨rfl, rfl, rfl⟩, ?_⟩
  exact List.forall_mem_nil _

theorem cmosTable_sound : ∀ d ∈ cmosTable, d.Sound .cmos := by
  unfold cmosTable cmosTable0 cmosTable8
  repeat refine List.forall_mem_cons.2 ⟨fun _ _ => ⟨rfl, rfl, rfl⟩, ?_⟩
  exact List.forall_mem_nil _

theorem descriptorTable_sound (v : Variant) : ∀ d ∈ descriptorTable v, d.Sound v := by
  cases v with
  | nmos => exact nmosTable_sound .nmos
  | cmos => exact List.forall_mem_append.2 ⟨nmosTable_sound .cmos, cmosTable_sound⟩

/-! ## What an opcode assembles -/

theorem operandCount_le_two (v : Variant) (op : Byte) : operandCount v op ≤ 2 := by
  unfold operandCount
  cases lookup v op with
  | none => exact Nat.zero_le 2
  | some d => cases h : d.shape <;> simp [Shape.operands, h]

/-- A slot without a descriptor assembles its fault from the opcode alone (R105). -/
theorem assemble_of_isFaultSlot {v : Variant} {op : Byte} (h : isFaultSlot v op = true) (b1 b2 : Byte) :
    assemble v op b1 b2 = faultSlot v op ∧ operandCount v op = 0 := by
  have hl : lookup v op = none := by simpa [isFaultSlot] using h
  simp [assemble, operandCount, hl]

theorem faultSlot_eq (v : Variant) (op : Byte) :
    faultSlot v op = if v = .nmos ∧ op ∈ jamSlots then .jam op else .notImplemented op := by
  simp [faultSlot]

theorem faultSlot_of_notImplemented {v : Variant} {op : Byte} (h : op ∈ notImplementedSlots v) :
    faultSlot v op = .notImplemented op :=
  (faultSlot_eq v op).trans (if_neg (not_jam_of_notImplemented h))

/-- A fault slot is an instruction of the variant, of one byte. -/
theorem faultSlot_sound {v : Variant} {op : Byte} (h : isFaultSlot v op = true) :
    (faultSlot v op).wellFormed = true ∧ (faultSlot v op).inVariant v = true ∧ (faultSlot v op).encode = [op] := by
  rcases (isFaultSlot_iff v op).1 h with ⟨rfl, hjam⟩ | hni
  · rw [faultSlot_eq, if_pos ⟨rfl, hjam⟩]
    simp [Instr.wellFormed, Instr.inVariant, Instr.encode, hjam]
  · rw [faultSlot_of_notImplemented hni]
    refine ⟨?_, by simpa [Instr.inVariant] using hni, rfl⟩
    cases v with
    | nmos => simp [Instr.wellFormed, show op ∈ nmosNotImplemented from hni]
    | cmos => simp [Instr.wellFormed, show op ∈ cmosNotImplemented from hni]

/-- Whatever an opcode assembles is an instruction of the variant, and its bytes are the opcode and the operand bytes looked at. -/
theorem assemble_sound (v : Variant) (op b1 b2 : Byte) :
    (assemble v op b1 b2).wellFormed = true ∧ (assemble v op b1 b2).inVariant v = true ∧
      (assemble v op b1 b2).encode = op :: [b1, b2].take (operandCount v op) := by
  cases hl : lookup v op with
  | none =>
    have hslot : isFaultSlot v op = true := by simp [isFaultSlot, hl]
    obtain ⟨hfault, hcount⟩ := assemble_of_isFaultSlot hslot b1 b2
    rw [hfault, hcount]
    exact faultSlot_sound hslot
  | some d =>
    obtain ⟨hd, rfl⟩ := lookup_eq_some_iff.1 hl
    simpa only [assemble, operandCount, hl, Shape.encoded_eq] using descriptorTable_sound v d hd b1 b2

/-! ## The decoder -/

/-- The decoder reads the opcode's number of operand bytes and leaves the others (R105). -/
theorem decode_take (v : Variant) (op b1 b2 : Byte) (rest : List Byte) :
    decode v (op :: ([b1, b2].take (operandCount v op) ++ rest)) = .ok (assemble v op b1 b2, rest) := by
  cases hl : lookup v op with
  | none => simp [decode, operandCount, assemble, hl]
  | some d => cases hs : d.shape <;> simp [decode, operandCount, assemble, hl, hs, Shape.operands, Shape.build]

/-- All that the decoder reads, it reads so. -/
theorem eq_of_decode {v : Variant} {bytes rest : List Byte} {i : Instr} (h : decode v bytes = .ok (i, rest)) :
    ∃ op b1 b2, i = assemble v op b1 b2 ∧ bytes = op :: ([b1, b2].take (operandCount v op) ++ rest) := by
  cases bytes with
  | nil => cases h
  | cons op tail =>
    simp only [decode] at h
    split at h
    case h_1 hcount =>
      cases h
      exact ⟨op, 0, 0, rfl, by simp [hcount]⟩
    case h_2 b1 rest hcount =>
      cases h
      exact ⟨op, b1, 0, rfl, by simp [hcount]⟩
    case h_3 b1 b2 rest hcount =>
      cases h
      exact ⟨op, b1, b2, rfl, by simp [hcount]⟩
    case h_4 => cases h

/-- Settles O2: the decoder reads what an opcode assembles. -/
theorem decodedInstructionsReencode : Obligations.DecodedInstructionsReencode := by
  intro v bytes rest i h
  obtain ⟨op, b1, b2, rfl, rfl⟩ := eq_of_decode h
  obtain ⟨hwf, hin, hencode⟩ := assemble_sound v op b1 b2
  exact ⟨hwf, hin, by rw [hencode, List.cons_append]⟩

/-! ## Every instruction is assembled -/

/-- Some opcode and operand bytes make `i` (R92, R93). -/
def Assembled (v : Variant) (i : Instr) : Prop := ∃ op b1 b2, assemble v op b1 b2 = i

theorem Assembled.decode_encode {v : Variant} {i : Instr} (h : Assembled v i) (rest : List Byte) :
    decode v (i.encode ++ rest) = .ok (i, rest) := by
  obtain ⟨op, b1, b2, rfl⟩ := h
  obtain ⟨-, -, hencode⟩ := assemble_sound v op b1 b2
  rw [hencode, List.cons_append, decode_take]

/-- The opcode the encoder gives an instruction. -/
def Instr.opcode (i : Instr) : Byte := i.encode.headD 0

/-- The quarter of the NMOS table that an opcode stands in. -/
def nmosQuarter (op : Byte) : List Descriptor :=
  if op < 0x40 then nmosTable0 else if op < 0x80 then nmosTable4 else if op < 0xC0 then nmosTable8 else nmosTableC

theorem nmosQuarter_subset (op : Byte) : nmosQuarter op ⊆ nmosTable := by
  intro d hd
  unfold nmosQuarter at hd
  simp only [nmosTable, List.mem_append]
  split_ifs at hd <;> simp [hd]

section
variable {v : Variant} {i : Instr} {d : Descriptor}

theorem Assembled.of_mem (hd : d ∈ descriptorTable v) {b1 b2 : Byte} (hi : d.shape.build b1 b2 = i) : Assembled v i :=
  ⟨d.opcode, b1, b2, by simp only [assemble, lookup_eq_some_iff.2 ⟨hd, rfl⟩, hi]⟩

/-- An instruction with a row of R98 belongs to both variants. -/
theorem Assembled.nmosRow (b1 b2 : Byte) (h : (nmosQuarter i.opcode).find? (fun d => d.opcode == i.opcode) = some d)
    (hi : d.shape.build b1 b2 = i) : Assembled v i := by
  have hd : d ∈ nmosTable := nmosQuarter_subset _ (List.mem_of_find?_eq_some h)
  cases v with
  | nmos => exact .of_mem hd hi
  | cmos => exact .of_mem (List.mem_append_left _ hd) hi

/-- An instruction with a row of R99 belongs to CMOS alone. -/
theorem Assembled.cmosRow (hv : (v == .cmos) = true) (b1 b2 : Byte)
    (h : cmosTable.find? (fun d => d.opcode == i.opcode) = some d) (hi : d.shape.build b1 b2 = i) : Assembled v i := by
  obtain rfl : v = .cmos := by simpa using hv
  exact .of_mem (List.mem_append_right _ (List.mem_of_find?_eq_some h)) hi

end

theorem exists_word (a : Addr) : ∃ hi lo, a = word hi lo := ⟨hiByte a, loByte a, (Machine.word_hiByte_loByte a).symm⟩

/-- Every instruction of a variant is assembled: mnemonic by mnemonic, and mode by mode where it has a memory operand. -/
theorem assembled_of_wellFormed {v : Variant} {i : Instr} (hw : i.wellFormed = true) (hv : i.inVariant v = true) :
    Assembled v i := by
  cases i with
  | lda o | adc o | sbc o | cmp o | and o | ora o | eor o =>
    cases o with
    | immediate b => exact .nmosRow b 0 rfl rfl
    | mem m =>
      cases m with
      | zeroPage z | zeroPageX z | indexedIndirectX z | indirectIndexedY z => exact .nmosRow z 0 rfl rfl
      | absolute a | absoluteX a | absoluteY a =>
        obtain ⟨hi, lo, rfl⟩ := exists_word a
        exact .nmosRow lo hi rfl rfl
      | zeroPageY z => cases hw
  | sta m =>
    cases m with
    | zeroPage z | zeroPageX z | indexedIndirectX z | indirectIndexedY z => exact .nmosRow z 0 rfl rfl
    | absolute a | absoluteX a | absoluteY a =>
      obtain ⟨hi, lo, rfl⟩ := exists_word a
      exact .nmosRow lo hi rfl rfl
    | zeroPageY z => cases hw
  | ldx o =>
    cases o with
    | immediate b => exact .nmosRow b 0 rfl rfl
    | mem m =>
      cases m with
      | zeroPage z | zeroPageY z => exact .nmosRow z 0 rfl rfl
      | absolute a | absoluteY a =>
        obtain ⟨hi, lo, rfl⟩ := exists_word a
        exact .nmosRow lo hi rfl rfl
      | _ => cases hw
  | ldy o =>
    cases o with
    | immediate b => exact .nmosRow b 0 rfl rfl
    | mem m =>
      cases m with
      | zeroPage z | zeroPageX z => exact .nmosRow z 0 rfl rfl
      | absolute a | absoluteX a =>
        obtain ⟨hi, lo, rfl⟩ := exists_word a
        exact .nmosRow lo hi rfl rfl
      | _ => cases hw
  | asl o | lsr o | rol o | ror o =>
    cases o with
    | accumulator => exact .nmosRow 0 0 rfl rfl
    | mem m =>
      cases m with
      | zeroPage z | zeroPageX z => exact .nmosRow z 0 rfl rfl
      | absolute a | absoluteX a =>
        obtain ⟨hi, lo, rfl⟩ := exists_word a
        exact .nmosRow lo hi rfl rfl
      | _ => cases hw
  | inc m | dec m =>
    cases m with
    | zeroPage z | zeroPageX z => exact .nmosRow z 0 rfl rfl
    | absolute a | absoluteX a =>
      obtain ⟨hi, lo, rfl⟩ := exists_word a
      exact .nmosRow lo hi rfl rfl
    | _ => cases hw
  | stz m =>
    cases m with
    | zeroPage z | zeroPageX z => exact .cmosRow hv z 0 rfl rfl
    | absolute a | absoluteX a =>
      obtain ⟨hi, lo, rfl⟩ := exists_word a
      exact .cmosRow hv lo hi rfl rfl
    | _ => cases hw
  | stx m =>
    cases m with
    | zeroPage z | zeroPageY z => exact .nmosRow z 0 rfl rfl
    | absolute a =>
      obtain ⟨hi, lo, rfl⟩ := exists_word a
      exact .nmosRow lo hi rfl rfl
    | _ => cases hw
  | sty m =>
    cases m with
    | zeroPage z | zeroPageX z => exact .nmosRow z 0 rfl rfl
    | absolute a =>
      obtain ⟨hi, lo, rfl⟩ := exists_word a
      exact .nmosRow lo hi rfl rfl
    | _ => cases hw
  | cpx o | cpy o =>
    cases o with
    | immediate b => exact .nmosRow b 0 rfl rfl
    | mem m =>
      cases m with
      | zeroPage z => exact .nmosRow z 0 rfl rfl
      | absolute a =>
        obtain ⟨hi, lo, rfl⟩ := exists_word a
        exact .nmosRow lo hi rfl rfl
      | _ => cases hw
  | bit m =>
    cases m with
    | zeroPage z => exact .nmosRow z 0 rfl rfl
    | absolute a =>
      obtain ⟨hi, lo, rfl⟩ := exists_word a
      exact .nmosRow lo hi rfl rfl
    | _ => cases hw
  | tsb m | trb m =>
    cases m with
    | zeroPage z => exact .cmosRow hv z 0 rfl rfl
    | absolute a =>
      obtain ⟨hi, lo, rfl⟩ := exists_word a
      exact .cmosRow hv lo hi rfl rfl
    | _ => cases hw
  | bpl d | bmi d | bvc d | bvs d | bcc d | bcs d | bne d | beq d => exact .nmosRow d 0 rfl rfl
  | jmp a | jmpIndirect a | jsr a =>
    obtain ⟨hi, lo, rfl⟩ := exists_word a
    exact .nmosRow lo hi rfl rfl
  | bra b | bitImmediate b => exact .cmosRow hv b 0 rfl rfl
  | rmb0 z | rmb1 z | rmb2 z | rmb3 z | rmb4 z | rmb5 z | rmb6 z | rmb7 z => exact .cmosRow hv z 0 rfl rfl
  | smb0 z | smb1 z | smb2 z | smb3 z | smb4 z | smb5 z | smb6 z | smb7 z => exact .cmosRow hv z 0 rfl rfl
  | bbr0 z d | bbr1 z d | bbr2 z d | bbr3 z d | bbr4 z d | bbr5 z d | bbr6 z d | bbr7 z d => exact .cmosRow hv z d rfl rfl
  | bbs0 z d | bbs1 z d | bbs2 z d | bbs3 z d | bbs4 z d | bbs5 z d | bbs6 z d | bbs7 z d => exact .cmosRow hv z d rfl rfl
  | phx | phy | plx | ply | incA | decA | wai | stp => exact .cmosRow hv 0 0 rfl rfl
  | jam op =>
    obtain ⟨rfl, hop⟩ : v = .nmos ∧ op ∈ jamSlots := by simpa [Instr.inVariant] using hv
    obtain ⟨hfault, -⟩ := assemble_of_isFaultSlot ((isFaultSlot_iff .nmos op).2 (.inl ⟨rfl, hop⟩)) 0 0
    exact ⟨op, 0, 0, hfault.trans ((faultSlot_eq .nmos op).trans (if_pos ⟨rfl, hop⟩))⟩
  | notImplemented op =>
    have hop : op ∈ notImplementedSlots v := by simpa [Instr.inVariant] using hv
    obtain ⟨hfault, -⟩ := assemble_of_isFaultSlot ((isFaultSlot_iff v op).2 (.inr hop)) 0 0
    exact ⟨op, 0, 0, hfault.trans (faultSlot_of_notImplemented hop)⟩
  | _ => exact .nmosRow 0 0 rfl rfl

/-- Settles O1: an instruction of the variant is assembled from the bytes that the encoder gives it, and the decoder reads just these. -/
theorem decodeEncodeRoundTrip : Obligations.DecodeEncodeRoundTrip := by
  intro v i rest hw hv
  exact (assembled_of_wellFormed hw hv).decode_encode rest

/-- Settles O4: the decoder computes on written-out bytes. -/
theorem sampleWordsDecode : Obligations.SampleWordsDecode :=
  ⟨rfl, rfl, rfl, rfl, rfl, rfl, rfl, rfl, rfl, rfl, rfl⟩

end Sys2Proof
end

section
/-!
The tables as a whole (30_encoding.md R92, R98 to R105): totality and the cycles column.
-/

namespace Sys2Proof

open Claims

theorem nmosTable_cycles (v : Variant) : ∀ d ∈ nmosTable, cyclesColumn v d.opcode = d.cycles ∧ 2 ≤ d.cycles := by
  simp only [nmosTable, List.forall_mem_append]
  cases v <;> decide

theorem cmosTable_cycles : ∀ d ∈ cmosTable, cyclesColumn .cmos d.opcode = d.cycles ∧ 2 ≤ d.cycles := by
  decide

theorem descriptorTable_cycles (v : Variant) : ∀ d ∈ descriptorTable v, cyclesColumn v d.opcode = d.cycles ∧ 2 ≤ d.cycles := by
  cases v with
  | nmos => exact nmosTable_cycles .nmos
  | cmos => exact List.forall_mem_append.2 ⟨nmosTable_cycles .cmos, cmosTable_cycles⟩

theorem cyclesNmos_opcodes : opcodeMask (cyclesNmos.flatMap Prod.snd) = opcodeMask (nmosTable.map Descriptor.opcode) := by
  simp only [cyclesNmos, nmosTable, List.flatMap_cons, List.flatMap_nil, List.map_append, opcodeMask_append]
  decide

theorem cyclesCmos_opcodes : opcodeMask (cyclesCmos.flatMap Prod.snd) = opcodeMask (cmosTable.map Descriptor.opcode) := by
  simp only [cyclesCmos, cmosTable, List.flatMap_cons, List.flatMap_nil, List.map_append, opcodeMask_append]
  decide

/-- The cycles column lists the opcodes that have a row. -/
theorem mem_cyclesTable_iff (v : Variant) (op : Byte) :
    op ∈ (cyclesTable v).flatMap Prod.snd ↔ op ∈ (descriptorTable v).map Descriptor.opcode := by
  refine mem_iff_of_opcodeMask_eq ?_ op
  cases v with
  | nmos => exact cyclesNmos_opcodes
  | cmos =>
    rw [cyclesTable, descriptorTable, List.flatMap_append, List.map_append, opcodeMask_append, opcodeMask_append, cyclesNmos_opcodes,
      cyclesCmos_opcodes]

theorem cyclesColumn_of_isFaultSlot {v : Variant} {op : Byte} (h : isFaultSlot v op = true) : cyclesColumn v op = 0 := by
  have unlisted : ∀ row ∈ cyclesTable v, op ∉ row.2 := fun row hrow hop =>
    (isFaultSlot_iff_not_mem v op).1 h ((mem_cyclesTable_iff v op).1 (List.mem_flatMap.2 ⟨row, hrow, hop⟩))
  have hfind : (cyclesTable v).find? (fun row => row.2.contains op) = none := by simpa using unlisted
  simp only [cyclesColumn, hfind]

/-- The base cycles are those of the column (R100). -/
theorem baseCycles_eq_column (v : Variant) (op : Byte) :
    baseCycles v op = cyclesColumn v op ∧ (isFaultSlot v op = false → 2 ≤ baseCycles v op) := by
  cases hl : lookup v op with
  | none =>
    have hslot : isFaultSlot v op = true := by simp [isFaultSlot, hl]
    simp [baseCycles, hl, hslot, cyclesColumn_of_isFaultSlot]
  | some d =>
    obtain ⟨hd, rfl⟩ := lookup_eq_some_iff.1 hl
    obtain ⟨hcycles, htwo⟩ := descriptorTable_cycles v d hd
    simp [baseCycles, hl, hcycles, htwo]

/-- Settles O3: the opcodes and the cycles by the rows, the decoder by what an opcode assembles. -/
theorem descriptorTableIsTotal : Obligations.DescriptorTableIsTotal := by
  intro v
  refine ⟨fun op b1 b2 rest => ?_, List.pairwise_map.1 (opcodes_nodup v), isFaultSlot_iff v, fun op rest hslot => ?_,
    baseCycles_eq_column v⟩
  · have h := decode_take v op b1 b2 ([b1, b2].drop (operandCount v op) ++ rest)
    rw [← List.append_assoc, List.take_append_drop] at h
    exact ⟨_, _, h⟩
  · obtain ⟨hfault, hcount⟩ := assemble_of_isFaultSlot hslot 0 0
    have h := decode_take v op 0 0 rest
    rw [hcount, hfault, faultSlot_eq] at h
    exact h

end Sys2Proof
end

section
/-!
Fault slots and the breakpoint hook (30_encoding.md R94, 45_system.md R275, R276, 60_exceptions.md R301, R320, R340).
-/

namespace Sys2Proof.Machine

open Sys2Proof.Claims

/-! ## Fault slots -/

theorem dispatch_of_isFaultSlot {s : State} {op : Byte} (h : isFaultSlot s.cfg.variant op = true) :
    dispatch op s = exec (faultSlot s.cfg.variant op) s := by
  rw [dispatch, if_pos h]

theorem cpuClock_of_boundary {s : State} (hrun : s.runState = .normal) (hcycles : s.instrCycles = 0) :
    cpuClock s = fetchBoundary s := by
  simp only [cpuClock, hrun, normalClock, hcycles, if_true]

/-- A fault that the clock of one place leaves ends the call there (R320). -/
theorem clockDevices_of_fault {k : Nat} {places : List Nat} {s t : State} (h : clockDevice k s = .next t) (hf : t.fault ≠ none) :
    clockDevices (k :: places) s = .next t := by
  simp only [clockDevices, h, if_pos (Option.isSome_iff_ne_none.2 hf)]

/-- Settles O19: a fault slot is dispatched to its own constructor, and a call that has reached the CPU ends at its fault. -/
theorem faultSlotsRaise : Obligations.FaultSlotsRaise := by
  intro s op
  refine ⟨fun hv hjam => ?_, fun hni => ?_, fun hrun hcycles helig hbreak hop => ?_, rfl, rfl, ?_⟩
  · have hslot : s.cfg.variant = .nmos ∧ op ∈ jamSlots := ⟨hv, hjam⟩
    rw [dispatch_of_isFaultSlot ((isFaultSlot_iff _ op).2 (.inl hslot)), faultSlot_eq, if_pos hslot]
    rfl
  · rw [dispatch_of_isFaultSlot ((isFaultSlot_iff _ op).2 (.inr hni)), faultSlot_of_notImplemented hni]
    rfl
  · rw [cpuClock_of_boundary hrun hcycles, fetchBoundary_of_opcode helig hbreak hop]
  · intro before after s1 t hok hf hs hbefore hclock hft
    obtain ⟨-, hcpu, hstep⟩ := step_of_clocked hok hf hs hbefore
    rw [hstep, clockDevices_of_fault (hcpu.trans hclock) hft]

/-! ## The breakpoint hook -/

section
variable {s : State}

theorem fetchOpcode_of_no_handler (left : Nat) (h : s.pc ∉ s.cfg.breakpoints) :
    fetchOpcode left s = .opcode (memRead s s.pc).1 (memRead s s.pc).2 := by
  unfold fetchOpcode
  exact if_neg (by simpa using h)

/-- The state after a handler's answer, which is drawn after the read (R340, log entry 12). -/
def answered (s : State) : State := { (memRead s s.pc).2 with io := (hookAnswer (memRead s s.pc).2.io).2 }

variable (h : s.pc ∈ s.cfg.breakpoints)
include h

theorem fetchOpcode_of_substitution (left : Nat) (hpc : (hookAnswer (memRead s s.pc).2.io).1.1 = s.pc) :
    fetchOpcode left s = .opcode (hookAnswer (memRead s s.pc).2.io).1.2 (answered s) := by
  unfold fetchOpcode
  exact (if_pos (by simpa using h)).trans (if_pos hpc)

variable (hpc : (hookAnswer (memRead s s.pc).2.io).1.1 ≠ s.pc)
include hpc

theorem fetchOpcode_of_last_redirect : fetchOpcode 0 s = .redirectLimit (memRead s s.pc).1 (answered s) := by
  unfold fetchOpcode
  exact (if_pos (by simpa using h)).trans (if_neg hpc)

theorem fetchOpcode_of_redirect (left : Nat) :
    fetchOpcode (left + 1) s =
      fetchOpcode left { answered s with pc := (hookAnswer (memRead s s.pc).2.io).1.1 } := by
  rw [fetchOpcode]
  exact (if_pos (by simpa using h)).trans (if_neg hpc)

end

/-! ## Dispatching an implemented opcode -/

/-- The operand bytes of an opcode are the bytes on the Bus after PC, and PC ends past them (R94). -/
theorem fetchOperands_eq_readBytes {n : Nat} (hn : n ≤ 2) (op : Byte) (s : State) :
    ∃ b1 b2, (readBytes n (s.pc + 1) s).1 = [b1, b2].take n ∧
      fetchOperands n (charge op s) = ((b1, b2),
        { (readBytes n (s.pc + 1) s).2 with
          pc := s.pc + BitVec.ofNat 16 (1 + n), instrCycles := baseCycles s.cfg.variant op }) := by
  have past : ∀ k, s.pc + BitVec.ofNat 16 (1 + k) = s.pc + 1 + BitVec.ofNat 16 k := fun k => by
    rw [BitVec.ofNat_add, BitVec.add_assoc]
    rfl
  rw [past]
  match n, hn with
  | 0, _ => exact ⟨0, 0, rfl, by simp [fetchOperands, charge, readBytes]⟩
  | 1, _ => exact ⟨_, 0, rfl, rfl⟩
  | 2, _ =>
    have twice : s.pc + 1 + BitVec.ofNat 16 2 = s.pc + 1 + 1 + 1 := by bv_omega
    rw [twice]
    exact ⟨_, _, rfl, rfl⟩

/-- An implemented opcode, read or substituted, runs the instruction it makes of the bytes after PC (R94, R301). -/
theorem dispatch_of_implemented {s : State} {op : Byte} (hslot : isFaultSlot s.cfg.variant op = false)
    (hstop : s.cfg.brkIsStop = true → op ≠ 0x00) :
    ∃ n i, decode s.cfg.variant (op :: (readBytes n (s.pc + 1) s).1) = .ok (i, []) ∧
      dispatch op s =
        andThen
          (exec i
            { (readBytes n (s.pc + 1) s).2 with
              pc := s.pc + BitVec.ofNat 16 (1 + n)
              instrCycles := baseCycles s.cfg.variant op })
          endCycle := by
  obtain ⟨b1, b2, hread, hfetch⟩ := fetchOperands_eq_readBytes (operandCount_le_two s.cfg.variant op) op s
  have runs : (s.cfg.brkIsStop && op == 0x00) = false := by simpa using hstop
  have hdecode := decode_take s.cfg.variant op b1 b2 []
  rw [List.append_nil, ← hread] at hdecode
  refine ⟨operandCount s.cfg.variant op, assemble s.cfg.variant op b1 b2, hdecode, ?_⟩
  simp only [dispatch, hslot, runs, hfetch, Bool.false_eq_true, if_false]

/-- Settles O23: the opcode read's branches, the fetch boundary on what the read ends in, and the dispatch of an implemented opcode. -/
theorem breakpointHook : Obligations.BreakpointHook := by
  intro s left
  refine ⟨fetchOpcode_of_no_handler left, fun h => fetchOpcode_of_substitution h left,
    fun h hpc => ⟨fetchOpcode_of_last_redirect h hpc, fetchOpcode_of_redirect h hpc left⟩, fun hrun hcycles helig => ?_,
    fun byte hslot hstop => ?_⟩
  · have fetched : ∀ byte u, fetchOpcode s.cfg.maxRedirects s = .opcode byte u → cpuClock s = dispatch byte u := by
      intro byte u hu
      simp only [cpuClock_of_boundary hrun hcycles, fetchBoundary, helig, hu]
    refine ⟨fetched, fun byte u hu => ?_, fun h hpc => fetched _ _ (fetchOpcode_of_substitution h _ hpc)⟩
    simp only [cpuClock_of_boundary hrun hcycles, fetchBoundary, helig, hu, raise]
  · obtain ⟨n, i, hdecode, hdispatch⟩ := dispatch_of_implemented hslot hstop
    obtain ⟨t, ht⟩ := exec_completes i
      { (readBytes n (s.pc + 1) s).2 with
        pc := s.pc + BitVec.ofNat 16 (1 + n), instrCycles := baseCycles s.cfg.variant byte }
    exact ⟨n, i, t, hdecode, ht, by rw [hdispatch, ht, andThen, endCycle]⟩

end Sys2Proof.Machine
end

section
/-!
Compares, logic, bit tests, read-modify-writes and branches (42_arithmetic.md R176 to R180, 43_logical_shift.md, 44_control.md R230 to
R244): each instruction as the shared operation it is, with its result in numbers or bit by bit.
-/

namespace Sys2Proof.Machine

open Sys2Proof.Claims

/-! ## Compares -/

theorem getLsbD_seven (v : Byte) : v.getLsbD 7 = decide (128 ≤ v.toNat) := by
  revert v
  decide

theorem getLsbD_zero (v : Byte) : v.getLsbD 0 = decide (v.toNat % 2 = 1) := by
  revert v
  decide

/-- The flags of a comparison in numbers (R176). -/
theorem compareFlags_eq (reg m : Byte) (p : Status) :
    compareFlags reg m p =
      { p with
        c := decide (m.toNat ≤ reg.toNat)
        z := decide (reg.toNat = m.toNat)
        n := decide (128 ≤ (reg.toNat + 256 - m.toNat) % 256) } := by
  have equal : (reg == m) = decide (reg.toNat = m.toNat) := Bool.eq_iff_iff.2 (by simp [BitVec.toNat_inj])
  have difference : (reg - m).toNat = (reg.toNat + 256 - m.toNat) % 256 := by
    have := m.isLt
    rw [BitVec.toNat_sub]
    omega
  rw [compareFlags, getLsbD_seven, difference, equal]

/-- Settles O44: the three compares write the flags of one comparison. -/
theorem compareInstructions : Obligations.CompareInstructions := by
  intro src s i reg h m
  have ht : exec i s = .next (compareRegister reg m) := by
    rcases h with ⟨rfl, rfl⟩ | ⟨rfl, rfl⟩ | ⟨rfl, rfl⟩ <;> rfl
  obtain ⟨⟨ha, hx, hy, hsp, hpc, hp⟩, he⟩ := load_frame src s
  rw [← compareFlags_eq]
  exact ⟨_, ht, ⟨ha, hx, hy, hsp, hpc, congrArg (compareFlags reg m.1) hp⟩, he,
    readsOnly_of (load_storesNothing src s) ⟨rfl, rfl, rfl, rfl⟩⟩

/-! ## Logic and bit tests -/

/-- Settles O47: A is loaded with the operation's result. -/
theorem logicalInstructions : Obligations.LogicalInstructions := by
  intro src s i f h m
  obtain ⟨hr, he⟩ := load_frame src s
  have ha : m.2.a = s.a := load_a src s
  have loaded := fun r => loadInto_setA (m := (r, m.2)) hr he (load_storesNothing src s)
  rcases h with ⟨rfl, rfl⟩ | ⟨rfl, rfl⟩ | ⟨rfl, rfl⟩
  · exact ⟨_, m.2.a &&& m.1, rfl, fun k _ => by rw [BitVec.getLsbD_and, ha], loaded _⟩
  · exact ⟨_, m.2.a ||| m.1, rfl, fun k _ => by rw [BitVec.getLsbD_or, ha], loaded _⟩
  · exact ⟨_, m.2.a ^^^ m.1, rfl, fun k _ => by rw [BitVec.getLsbD_xor, ha], loaded _⟩

/-- Z of a test: the two bytes share no 1. -/
theorem and_eq_zero_iff (a m : Byte) :
    ((a &&& m) == 0) = true ↔ ∀ k : Nat, k < 8 → ¬(a.getLsbD k = true ∧ m.getLsbD k = true) := by
  rw [beq_iff_eq, BitVec.eq_of_getLsbD_eq_iff]
  simp

/-- Settles O48: a read, or none, and the flags of one test. -/
theorem bitTestInstructions : Obligations.BitTestInstructions := by
  intro s
  refine ⟨fun src => ?_, fun v => ?_⟩
  · obtain ⟨⟨ha, hx, hy, hsp, hpc, -⟩, he⟩ := load_frame (.mem src) s
    exact ⟨_, rfl, and_eq_zero_iff s.a (loadMem src s).1, ⟨ha, hx, hy, hsp, hpc, rfl⟩, he,
      readsOnly_of (loadMem_storesNothing src s) ⟨rfl, rfl, rfl, rfl⟩⟩
  · exact ⟨_, rfl, and_eq_zero_iff s.a v, ⟨rfl, rfl, rfl, rfl, rfl, rfl⟩, sameEngine_refl s,
      readsOnly_of (.refl s) ⟨rfl, rfl, rfl, rfl⟩⟩

/-! ## Read-modify-writes -/

theorem loadMem_eq (dst : Mem) (s : State) : loadMem dst s = memRead (effectiveAddress dst s).2 (effectiveAddress dst s).1 := rfl

/-- A read-modify-write of memory: the flags and the byte of its computation, and nothing else. -/
theorem modifyMem_spec (op : Modify) {dst : Mem} {s : State} {m : Byte × State} (hm : loadMem dst s = m) :
    Registers (modifyMem op dst s) s.a s.x s.y s.sp s.pc (op m.1 s.p).2 ∧ SameEngine s (modifyMem op dst s) ∧
      StoresAt (effectiveAddress dst s).1 (op m.1 s.p).1 s m.2 (modifyMem op dst s) :=
  ⟨by simp [Registers, hm], by simp [SameEngine], hm ▸ modifyMem_storesAt op dst s⟩

/-- The same of A, which no Bus access serves. -/
theorem modifyAcc_spec (op : Modify) (s : State) :
    Registers (modifyAcc op s) (op s.a s.p).1 s.x s.y s.sp s.pc (op s.a s.p).2 ∧ SameEngine s (modifyAcc op s) ∧
      ReadsOnly s s (modifyAcc op s) :=
  ⟨⟨rfl, rfl, rfl, rfl, rfl, rfl⟩, sameEngine_refl s, readsOnly_of (.refl s) ⟨rfl, rfl, rfl, rfl⟩⟩

theorem incOp_eq (v : Byte) (p : Status) :
    incOp v p = (BitVec.ofNat 8 (v.toNat + 1), nz (BitVec.ofNat 8 (v.toNat + 1)) p) := by
  rw [incOp, setNZ_eq_nz, byte_add_one]

theorem decOp_eq (v : Byte) (p : Status) :
    decOp v p = (BitVec.ofNat 8 (v.toNat + 255), nz (BitVec.ofNat 8 (v.toNat + 255)) p) := by
  rw [decOp, setNZ_eq_nz, byte_sub_one]

/-- Settles O45: each is the read-modify-write of its computation. -/
theorem incrementMemory : Obligations.IncrementMemory := by
  intro dst s ea m i r h
  rcases h with ⟨rfl, rfl⟩ | ⟨rfl, rfl⟩
  · have spec := modifyMem_spec incOp (dst := dst) (m := m) rfl
    rw [incOp_eq] at spec
    exact ⟨_, rfl, spec⟩
  · have spec := modifyMem_spec decOp (dst := dst) (m := m) rfl
    rw [decOp_eq] at spec
    exact ⟨_, rfl, spec⟩

/-- What a shift makes of a byte under the flags `p`: the value and the bit shifted out (R205 to R208). -/
def ShiftsTo (op : Modify) (f : Byte → Byte × Bool) (p : Status) : Prop :=
  ∀ v, op v p = ((f v).1, nz (f v).1 { p with c := (f v).2 })

theorem aslOp_shiftsTo (p : Status) : ShiftsTo aslOp (fun v => (BitVec.ofNat 8 (2 * v.toNat), decide (128 ≤ v.toNat))) p := by
  intro v
  have value : v <<< 1 = BitVec.ofNat 8 (2 * v.toNat) := by
    revert v
    decide
  rw [aslOp, setNZ_eq_nz, getLsbD_seven, value]

theorem lsrOp_shiftsTo (p : Status) : ShiftsTo lsrOp (fun v => (BitVec.ofNat 8 (v.toNat / 2), decide (v.toNat % 2 = 1))) p := by
  intro v
  have value : v >>> 1 = BitVec.ofNat 8 (v.toNat / 2) := by
    revert v
    decide
  rw [lsrOp, setNZ_eq_nz, getLsbD_zero, value]

theorem rolOp_shiftsTo (p : Status) :
    ShiftsTo rolOp (fun v => (BitVec.ofNat 8 (2 * v.toNat + p.c.toNat), decide (128 ≤ v.toNat))) p := by
  intro v
  have value : ∀ (c : Bool) (v : Byte), v <<< 1 ||| (BitVec.ofBool c).setWidth 8 = BitVec.ofNat 8 (2 * v.toNat + c.toNat) := by
    decide
  rw [rolOp, setNZ_eq_nz, getLsbD_seven, value]

theorem rorOp_shiftsTo (p : Status) :
    ShiftsTo rorOp (fun v => (BitVec.ofNat 8 (v.toNat / 2 + 128 * p.c.toNat), decide (v.toNat % 2 = 1))) p := by
  intro v
  have value : ∀ (c : Bool) (v : Byte),
      v >>> 1 ||| (BitVec.ofBool c).setWidth 8 <<< 7 = BitVec.ofNat 8 (v.toNat / 2 + 128 * c.toNat) := by
    decide
  rw [rorOp, setNZ_eq_nz, getLsbD_zero, value]

/-- Settles O49: each is the read-modify-write of its computation, on A or on memory. -/
theorem shiftInstructions : Obligations.ShiftInstructions := by
  intro s mk f h
  obtain ⟨op, hexec, hop⟩ : ∃ op, (∀ dst, exec (mk dst) s = .next (modifyRmw op dst s)) ∧ ShiftsTo op f s.p := by
    rcases h with ⟨rfl, rfl⟩ | ⟨rfl, rfl⟩ | ⟨rfl, rfl⟩ | ⟨rfl, rfl⟩
    · exact ⟨aslOp, fun _ => rfl, aslOp_shiftsTo s.p⟩
    · exact ⟨lsrOp, fun _ => rfl, lsrOp_shiftsTo s.p⟩
    · exact ⟨rolOp, fun _ => rfl, rolOp_shiftsTo s.p⟩
    · exact ⟨rorOp, fun _ => rfl, rorOp_shiftsTo s.p⟩
  refine ⟨⟨_, hexec .accumulator, ?_⟩, fun dst => ⟨_, hexec (.mem dst), ?_⟩⟩
  · have spec := modifyAcc_spec op s
    rwa [hop s.a] at spec
  · have spec := modifyMem_spec op (loadMem_eq dst s)
    rwa [hop] at spec

/-! ## Bits of memory -/

theorem exec_rmb (n : Fin 8) (z : Byte) (s : State) : exec (rmb n z) s = .next (modifyMem (rmbOp n.val) (.zeroPage z) s) := by
  fin_cases n <;> rfl

theorem exec_smb (n : Fin 8) (z : Byte) (s : State) : exec (smb n z) s = .next (modifyMem (smbOp n.val) (.zeroPage z) s) := by
  fin_cases n <;> rfl

theorem getLsbD_oneBit (n : Fin 8) (k : Nat) : (oneBit n.val).getLsbD k = decide (k = n.val) := by
  rw [oneBit, ← BitVec.twoPow_eq, BitVec.getLsbD_twoPow]
  simp [eq_comm]

/-- Settles O50: each is the read-modify-write of its computation, whose byte is given bit by bit. -/
theorem bitManipulation : Obligations.BitManipulation := by
  intro s
  refine ⟨fun dst i f h => ?_, fun n z i level h => ?_⟩
  · intro ea m
    rcases h with ⟨rfl, rfl⟩ | ⟨rfl, rfl⟩
    · obtain ⟨hr, hrest⟩ := modifyMem_spec (tsbOp s.a) (loadMem_eq dst s)
      exact ⟨_, m.1 ||| s.a, rfl, fun k _ => BitVec.getLsbD_or, and_eq_zero_iff s.a m.1, hr, hrest⟩
    · obtain ⟨hr, hrest⟩ := modifyMem_spec (trbOp s.a) (loadMem_eq dst s)
      exact ⟨_, m.1 &&& ~~~s.a, rfl, fun k hk => by simp [hk], and_eq_zero_iff s.a m.1, hr, hrest⟩
  · rw [← zext16_eq]
    intro ea m
    have spec := fun op => modifyMem_spec op (dst := .zeroPage z) (m := m) rfl
    rcases h with ⟨rfl, rfl⟩ | ⟨rfl, rfl⟩
    · refine ⟨_, m.1 &&& ~~~oneBit n.val, exec_rmb n z s, fun k hk => ?_, spec (rmbOp n.val)⟩
      rw [BitVec.getLsbD_and, BitVec.getLsbD_not, getLsbD_oneBit]
      by_cases h : k = n.val <;> simp [hk, h]
    · refine ⟨_, m.1 ||| oneBit n.val, exec_smb n z s, fun k hk => ?_, spec (smbOp n.val)⟩
      rw [BitVec.getLsbD_or, getLsbD_oneBit]
      by_cases h : k = n.val <;> simp [h]

/-! ## Branches -/

/-- A branch taken or not: PC, and nothing else after the reads before it. -/
theorem branchIf_spec (cond : Bool) (d : Byte) (s : State) :
    Registers (branchIf cond d s) s.a s.x s.y s.sp (if cond = true then displaced s.pc d else s.pc) s.p ∧
      SameEngine s (branchIf cond d s) ∧ SameSide s (branchIf cond d s) := by
  rw [branchIf_eq, branchTarget, add_sext8]
  exact ⟨⟨rfl, rfl, rfl, rfl, rfl, rfl⟩, sameEngine_refl s, rfl, rfl, rfl, rfl⟩

/-- Settles O51: each is a branch on its condition, BRA's always holding. -/
theorem branchInstructions : Obligations.BranchInstructions := by
  intro s d i cond h
  have ht : exec i s = .next (branchIf cond d s) := by
    rcases h with h | h | h | h | h | h | h | h | h <;> (obtain ⟨rfl, rfl⟩ := h; rfl)
  obtain ⟨hr, he, hside⟩ := branchIf_spec cond d s
  exact ⟨_, ht, hr, he, readsOnly_of (.refl s) hside⟩

theorem exec_bbr (n : Fin 8) (z d : Byte) (s : State) : exec (bbr n z d) s = .next (branchOnBit n.val false z d s) := by
  fin_cases n <;> rfl

theorem exec_bbs (n : Fin 8) (z d : Byte) (s : State) : exec (bbs n z d) s = .next (branchOnBit n.val true z d s) := by
  fin_cases n <;> rfl

/-- Settles O52: one read, then a branch on the bit. -/
theorem bitBranchInstructions : Obligations.BitBranchInstructions := by
  intro s n z d i level h
  have ht : exec i s = .next (branchOnBit n.val level z d s) := by
    rcases h with ⟨rfl, rfl⟩ | ⟨rfl, rfl⟩
    · exact exec_bbr n z d s
    · exact exec_bbs n z d s
  rw [← zext16_eq]
  obtain ⟨hr, he, hside⟩ := branchIf_spec ((memRead s (zext16 z)).1.getLsbD n.val == level) d (memRead s (zext16 z)).2
  simp only [beq_iff_eq] at hr
  exact ⟨_, ht, hr, he, readsOnly_of (memRead_storesNothing s (zext16 z)) hside⟩

end Sys2Proof.Machine
end

section
/-!
Adding, subtracting, and counting in a register (42_arithmetic.md R170 to R175, R181 to R186): the result of each mode in numbers, what
the decimal modes make of packed decimal bytes, and each instruction as the shared operation it is.
-/

namespace Sys2Proof.Machine

open Sys2Proof.Claims

/-! ## Counting in a register -/

/-- Settles O46: X and Y are loaded with their neighbour; A is counted by the computation INC and DEC have for memory. -/
theorem incrementRegisters : Obligations.IncrementRegisters := by
  intro s up down
  have hr := registers_refl s
  have he := sameEngine_refl s
  have hs := StoresNothing.refl s
  have inc := modifyAcc_spec incOp s
  have dec := modifyAcc_spec decOp s
  rw [incOp_eq] at inc
  rw [decOp_eq] at dec
  simp only [up, down, ← byte_add_one, ← byte_sub_one] at inc dec ⊢
  exact ⟨⟨_, rfl, loadInto_setX (m := (s.x + 1, s)) hr he hs⟩, ⟨_, rfl, loadInto_setY (m := (s.y + 1, s)) hr he hs⟩,
    ⟨_, rfl, loadInto_setX (m := (s.x - 1, s)) hr he hs⟩, ⟨_, rfl, loadInto_setY (m := (s.y - 1, s)) hr he hs⟩,
    ⟨_, rfl, inc⟩, ⟨_, rfl, dec⟩⟩

/-! ## Nibbles, sign and complement of a byte -/

theorem and_0x0F_toNat (v : Byte) : (v &&& 0x0F).toNat = v.toNat % 16 := by
  revert v
  decide

theorem and_0xF0_toNat (v : Byte) : (v &&& 0xF0).toNat = 16 * (v.toNat / 16) := by
  revert v
  decide

theorem and_0xF0_toInt (v : Byte) : (v &&& 0xF0).toInt = 16 * (v.toInt / 16) := by
  revert v
  decide

theorem xor_0xFF (v : Byte) : v ^^^ 0xFF = ~~~v := BitVec.xor_allOnes

theorem and_0x80_ne_zero (v : Byte) : ((v &&& 0x80) != 0) = v.getLsbD 7 := by
  revert v
  decide

/-- The sign of a byte is its bit 7. -/
theorem toInt_eq_toNat_sub (v : Byte) : v.toInt = v.toNat - 256 * ((v.getLsbD 7).toNat : Int) := by
  revert v
  decide

theorem toInt_not (v : Byte) : (~~~v).toInt = -1 - v.toInt := by
  revert v
  decide

/-! ## The result of each mode in numbers -/

/-- V of R171: the operands' signs agree and the result's differs exactly when the signed sum is out of range. -/
theorem adcBinary_overflow (a m : Byte) (c : Bool) :
    (adcBinary a m c).overflow = decide (a.toInt + m.toInt + (c.toNat : Int) < -128 ∨ 127 < a.toInt + m.toInt + (c.toNat : Int)) := by
  obtain ⟨r, hr⟩ : ∃ r : Byte, r = BitVec.ofNat 8 (a.toNat + m.toNat + c.toNat) := ⟨_, rfl⟩
  have signs : (adcBinary a m c).overflow = (!(a.getLsbD 7 ^^ m.getLsbD 7) && (a.getLsbD 7 ^^ r.getLsbD 7)) := by
    rw [adcBinary, ← hr, and_0x80_ne_zero]
    simp
  have value : r.toNat = (a.toNat + m.toNat + c.toNat) % 256 := by rw [hr, BitVec.toNat_ofNat]
  have hc := c.toNat_le
  have ha := a.isLt
  have hm := m.isLt
  rw [signs, toInt_eq_toNat_sub a, toInt_eq_toNat_sub m, Bool.eq_iff_iff]
  simp only [getLsbD_seven, value]
  by_cases ha' : 128 ≤ a.toNat <;> by_cases hm' : 128 ≤ m.toNat <;> simp [ha', hm'] <;> omega

theorem adcBinary_eq (a m : Byte) (c : Bool) :
    adcBinary a m c =
      let sum := a.toNat + m.toNat + c.toNat
      let signed := a.toInt + m.toInt + (c.toNat : Int)
      { value := BitVec.ofNat 8 sum
        carry := decide (256 ≤ sum)
        overflow := decide (signed < -128 ∨ 127 < signed) } :=
  congrArg (AluResult.mk _ _) (adcBinary_overflow a m c)

/-- The addition of the complement subtracts (R174): the borrow is the carry's absence. -/
theorem sbcBinary_eq (a m : Byte) (c : Bool) :
    sbcBinary a m c =
      let diff : Int := (a.toNat : Int) - m.toNat - (1 - c.toNat)
      let signed := a.toInt - m.toInt - (1 - (c.toNat : Int))
      { value := BitVec.ofInt 8 diff
        carry := decide (0 ≤ diff)
        overflow := decide (signed < -128 ∨ 127 < signed) } := by
  have complement : (~~~m).toNat = 255 - m.toNat := BitVec.toNat_not
  have := m.isLt
  have value : BitVec.ofNat 8 (a.toNat + (255 - m.toNat) + c.toNat) = BitVec.ofInt 8 ((a.toNat : Int) - m.toNat - (1 - c.toNat)) := by
    refine BitVec.eq_of_toNat_eq ?_
    rw [BitVec.toNat_ofNat, BitVec.toNat_ofInt]
    omega
  rw [sbcBinary, xor_0xFF, adcBinary_eq, complement, toInt_not]
  simp only [value, AluResult.mk.injEq, decide_eq_decide, true_and]
  omega

/-- The decimal sum (R172, R173), its nibbles and carries in numbers. -/
theorem adcDecimal_eq (a m : Byte) (c : Bool) :
    adcDecimal a m c =
      let al0 := a.toNat % 16 + m.toNat % 16 + c.toNat
      let al := if 10 ≤ al0 then (al0 + 6) % 16 + 16 else al0
      let s0 := 16 * (a.toNat / 16) + 16 * (m.toNat / 16) + al
      let sum := if 160 ≤ s0 then s0 + 96 else s0
      let signed := 16 * (a.toInt / 16) + 16 * (m.toInt / 16) + (al : Int)
      { value := BitVec.ofNat 8 sum
        carry := decide (256 ≤ sum)
        overflow := decide (signed < -128 ∨ 127 < signed) } := by
  simp only [adcDecimal, and_0x0F_toNat, and_0xF0_toNat, and_0xF0_toInt, Bool.decide_or, ge_iff_le, gt_iff_lt]

/-- V of the decimal subtraction is that of the binary one (R175). -/
theorem sbcDecimal_overflow (a m : Byte) (c : Bool) : (sbcDecimal a m c).overflow = (sbcBinary a m c).overflow := by
  have complement : ~~~(a ^^^ ~~~m) = a ^^^ m := by
    ext i
    simp
  simp only [sbcDecimal, sbcBinary, adcBinary, xor_0xFF, complement]

/-- The decimal difference (R175), its nibbles and borrows in numbers. -/
theorem sbcDecimal_eq (a m : Byte) (c : Bool) :
    sbcDecimal a m c =
      let diff : Int := (a.toNat : Int) - m.toNat - (1 - c.toNat)
      let signed := a.toInt - m.toInt - (1 - (c.toNat : Int))
      let al0 : Int := (a.toNat % 16 : Nat) - (m.toNat % 16 : Nat) + (c.toNat : Int) - 1
      let al := if al0 < 0 then (al0 - 6) % 16 - 16 else al0
      let t0 : Int := 16 * (a.toNat / 16 : Nat) - 16 * (m.toNat / 16 : Nat) + al
      { value := BitVec.ofInt 8 (if t0 < 0 then t0 - 96 else t0)
        carry := decide (0 ≤ diff)
        overflow := decide (signed < -128 ∨ 127 < signed) } := by
  have binary : sbcDecimal a m c = ⟨(sbcDecimal a m c).value, (sbcBinary a m c).carry, (sbcBinary a m c).overflow⟩ :=
    congrArg (AluResult.mk _ _) (sbcDecimal_overflow a m c)
  rw [binary, sbcBinary_eq]
  simp only [sbcDecimal, and_0x0F_toNat, and_0xF0_toNat, Nat.cast_mul, Nat.cast_ofNat]

/-! ## Packed decimal bytes -/

/-- The correction of the low nibble makes the sum of two digits and a carry a digit and a carry (R172). -/
theorem lowDigit_add {t : Nat} (ht : t ≤ 19) : (if 10 ≤ t then (t + 6) % 16 + 16 else t) = 16 * (t / 10) + t % 10 := by
  split <;> omega

/-- The correction of the high nibble does the same above a low digit `d`. -/
theorem highDigit_add {h d : Nat} (hh : h ≤ 19) (hd : d ≤ 9) :
    (if 160 ≤ 16 * h + d then 16 * h + d + 96 else 16 * h + d) = 256 * (h / 10) + 16 * (h % 10) + d := by
  split <;> omega

/-- The correction of the low nibble makes the difference of two digits less a borrow a digit and a borrow (R175). -/
theorem lowDigit_sub {t : Int} (ht : -10 ≤ t ∧ t ≤ 9) :
    (if t < 0 then (t - 6) % 16 - 16 else t) = 16 * (t / 10) + t % 10 := by
  split <;> omega

/-- The correction of the high nibble does the same above a low digit `d`. -/
theorem highDigit_sub {h d : Int} (hh : -10 ≤ h ∧ h ≤ 9) (hd : 0 ≤ d ∧ d ≤ 9) :
    (if 16 * h + d < 0 then 16 * h + d - 96 else 16 * h + d) = 256 * (h / 10) + 16 * (h % 10) + d := by
  split <;> omega

/-- The decimal sum by the digit sums `t` and `h` of its two nibbles, `h` with the low nibble's carry (R172). -/
theorem adcDecimal_of_digitSums {a m : Byte} {c : Bool} {t h : Nat} (ht : a.toNat % 16 + m.toNat % 16 + c.toNat = t)
    (hh : a.toNat / 16 + m.toNat / 16 + t / 10 = h) (hlow : t ≤ 19) (hhigh : h ≤ 19) :
    (adcDecimal a m c).value.toNat = 16 * (h % 10) + t % 10 ∧ (adcDecimal a m c).carry.toNat = h / 10 := by
  have digits : 16 * (a.toNat / 16) + 16 * (m.toNat / 16) + (16 * (t / 10) + t % 10) = 16 * h + t % 10 := by omega
  simp only [adcDecimal_eq, ht, lowDigit_add hlow, digits, highDigit_add hhigh (show t % 10 ≤ 9 by omega)]
  constructor
  · rw [BitVec.toNat_ofNat]
    omega
  · rw [Bool.toNat, Bool.cond_decide]
    split <;> omega

/-- The decimal difference by the digit differences `t` and `h` of its two nibbles, `h` with the low nibble's borrow (R175). -/
theorem sbcDecimal_of_digitDifferences {a m : Byte} {c : Bool} {t h : Int}
    (ht : ((a.toNat % 16 : Nat) : Int) - (m.toNat % 16 : Nat) + (c.toNat : Int) - 1 = t)
    (hh : ((a.toNat / 16 : Nat) : Int) - (m.toNat / 16 : Nat) + t / 10 = h) (hlow : -10 ≤ t ∧ t ≤ 9) (hhigh : -10 ≤ h ∧ h ≤ 9) :
    ((sbcDecimal a m c).value.toNat : Int) = 16 * (h % 10) + t % 10 ∧ ((sbcDecimal a m c).carry.toNat : Int) = 1 + h / 10 := by
  have digits : 16 * ((a.toNat / 16 : Nat) : Int) - 16 * (m.toNat / 16 : Nat) + (16 * (t / 10) + t % 10) = 16 * h + t % 10 := by
    omega
  simp only [sbcDecimal_eq, ht, lowDigit_sub hlow, digits, highDigit_sub hhigh (show 0 ≤ t % 10 ∧ t % 10 ≤ 9 by omega)]
  constructor
  · rw [BitVec.toNat_ofInt]
    omega
  · rw [Bool.toNat, Bool.cond_decide]
    split <;> omega

/-- On packed decimal bytes the decimal sum is the sum, and its carry counts 100 (R172). -/
theorem adcDecimal_of_isDecimal {a m : Byte} (c : Bool) (ha : IsDecimal a) (hm : IsDecimal m) :
    IsDecimal (adcDecimal a m c).value ∧
      decimalValue (adcDecimal a m c).value + 100 * (adcDecimal a m c).carry.toNat = decimalValue a + decimalValue m + c.toNat := by
  obtain ⟨hah, hal⟩ := ha
  obtain ⟨hmh, hml⟩ := hm
  have hc := c.toNat_le
  obtain ⟨value, carry⟩ := adcDecimal_of_digitSums (a := a) (m := m) (c := c) rfl rfl (by omega) (by omega)
  simp only [IsDecimal, decimalValue, carry]
  omega

/-- On packed decimal bytes the decimal difference is the difference, and its borrow counts 100 (R175). -/
theorem sbcDecimal_of_isDecimal {a m : Byte} (c : Bool) (ha : IsDecimal a) (hm : IsDecimal m) :
    IsDecimal (sbcDecimal a m c).value ∧
      (decimalValue (sbcDecimal a m c).value : Int) =
        decimalValue a - decimalValue m - (1 - c.toNat) + 100 * (1 - (sbcDecimal a m c).carry.toNat) := by
  obtain ⟨hah, hal⟩ := ha
  obtain ⟨hmh, hml⟩ := hm
  have hc := c.toNat_le
  obtain ⟨value, carry⟩ := sbcDecimal_of_digitDifferences (a := a) (m := m) (c := c) rfl rfl (by omega) (by omega)
  simp only [IsDecimal, decimalValue, carry]
  omega

/-! ## The instructions -/

/-- The instruction of either operation (R170, R174): A and the flags take the result `r` of the mode D selects, and nothing else
changes after the operand's reads. -/
theorem arithmetic_spec {binary decimal : Byte → Byte → Bool → AluResult} {src : Src} {s : State} {r : AluResult}
    (hr : (if s.p.d then decimal s.a (load src s).1 s.p.c else binary s.a (load src s).1 s.p.c) = r) :
    Registers (arithmetic binary decimal (load src s)) r.value s.x s.y s.sp s.pc
        (nz r.value { s.p with c := r.carry, v := r.overflow }) ∧
      SameEngine s (arithmetic binary decimal (load src s)) ∧
      ReadsOnly (load src s).2 s (arithmetic binary decimal (load src s)) := by
  obtain ⟨⟨ha, hx, hy, hsp, hpc, hp⟩, he⟩ := load_frame src s
  rw [← ha, ← hp] at hr
  subst hr
  refine ⟨⟨rfl, hx, hy, hsp, hpc, ?_⟩, he, readsOnly_of (load_storesNothing src s) ⟨rfl, rfl, rfl, rfl⟩⟩
  rw [← hp, ← setNZ_eq_nz]
  rfl

/-- Settles O40: the binary sum in numbers. -/
theorem addBinary : Obligations.AddBinary := by
  intro src s hd m sum signed
  exact ⟨_, rfl, arithmetic_spec ((if_neg (by simp [hd])).trans (adcBinary_eq s.a m.1 s.p.c))⟩

/-- Settles O42: the binary difference in numbers. -/
theorem subtractBinary : Obligations.SubtractBinary := by
  intro src s hd m diff signed
  exact ⟨_, rfl, arithmetic_spec ((if_neg (by simp [hd])).trans (sbcBinary_eq s.a m.1 s.p.c))⟩

/-- Settles O41: the decimal sum in numbers, and of packed decimal bytes. -/
theorem addDecimal : Obligations.AddDecimal := by
  intro src s hd m al0 al s0 sum signed
  have result := adcDecimal_eq s.a m.1 s.p.c
  obtain ⟨hr, he, hread⟩ := arithmetic_spec (binary := adcBinary) (decimal := adcDecimal) (src := src) (s := s)
    ((if_pos hd).trans result)
  refine ⟨_, _, rfl, rfl, hr, he, hread, fun ha hm => ?_⟩
  obtain ⟨-, -, -, -, -, hp⟩ := hr
  rw [hp]
  have decimal := adcDecimal_of_isDecimal s.p.c ha hm
  rw [result] at decimal
  exact decimal

/-- Settles O43: the decimal difference in numbers, and of packed decimal bytes. -/
theorem subtractDecimal : Obligations.SubtractDecimal := by
  intro src s hd m diff signed al0 al t0 corrected
  have result := sbcDecimal_eq s.a m.1 s.p.c
  obtain ⟨hr, he, hread⟩ := arithmetic_spec (binary := sbcBinary) (decimal := sbcDecimal) (src := src) (s := s)
    ((if_pos hd).trans result)
  refine ⟨_, _, rfl, rfl, hr, he, hread, fun ha hm => ?_⟩
  obtain ⟨-, -, -, -, -, hp⟩ := hr
  rw [hp]
  have decimal := sbcDecimal_of_isDecimal s.p.c ha hm
  rw [result] at decimal
  exact decimal

end Sys2Proof.Machine
end

section
/-!
A subroutine's return (44_control.md R241, R242): RTS pulls the word that JSR pushed.
-/

namespace Sys2Proof.Machine

open Sys2Proof.Claims

/-- A state whose memory and SP a word's push on RAM left pulls that word, whatever its PC, and SP is back. -/
theorem pullWord_of_pushWord {s t : State} {w : Addr} (hfirst : RamAt s.devices (stackAddr s.sp))
    (hsecond : RamAt s.devices (stackAddr (s.sp - 1))) (hdevices : t.devices = (pushWord w s).devices)
    (hsp : t.sp = (pushWord w s).sp) : pullWord t = (w, { t with sp := s.sp }) := by
  obtain ⟨-, high, low⟩ := memoryByte_push_push s (hiByte w) (loByte w)
  rw [pushWord_sp] at hsp
  have second : t.sp + 1 = s.sp - 1 := by bv_omega
  have first : t.sp + 2 = s.sp := by bv_omega
  have heldLow : memoryByte t.devices (stackAddr (t.sp + 1)) = some (loByte w) := by
    rw [second, hdevices]
    exact low hsecond
  have heldHigh : memoryByte t.devices (stackAddr (t.sp + 2)) = some (hiByte w) := by
    rw [first, hdevices]
    exact high hfirst
  rw [pullWord_of_memoryByte heldLow heldHigh, word_hiByte_loByte, first]

/-- Settles O54: RTS pulls the address of JSR's last byte and adds 1; neither instruction touches another register. -/
theorem subroutineReturns : Obligations.SubroutineReturns := by
  intro s target hfirst hsecond
  let t := { pushWord (s.pc - 1) s with pc := target }
  have pulled : pullWord t = (s.pc - 1, { t with sp := s.sp }) := pullWord_of_pushWord hfirst hsecond rfl rfl
  have resumed : (pullWord t).1 + 1 = s.pc := by
    rw [pulled]
    exact BitVec.sub_add_cancel s.pc 1
  have restored : (pullWord t).2.sp = s.sp := by rw [pulled]
  exact ⟨t, _, rfl, rfl, rfl, rfl, rfl, rfl, restored, resumed, rfl⟩

end Sys2Proof.Machine
end

section
/-!
The return from an interrupt, the flag instructions and the waits (45_system.md R261 to R271, 60_exceptions.md R311, R313): RTI pulls
what the entry pushed, and the rest write one field each.
-/

namespace Sys2Proof.Machine

open Sys2Proof.Claims

/-! ## The return from an exception -/

/-- Returning from an exception whose three bytes memory holds. -/
theorem returnFromException_of_memoryByte {s : State} {status lo hi : Byte}
    (hstatus : memoryByte s.devices (stackAddr (s.sp + 1)) = some status)
    (hlo : memoryByte s.devices (stackAddr (s.sp + 2)) = some lo) (hhi : memoryByte s.devices (stackAddr (s.sp + 3)) = some hi) :
    returnFromException s = { s with sp := s.sp + 3, pc := word hi lo, p := { deserialize status with b := true } } := by
  have second : s.sp + 2 = s.sp + 1 + 1 := by bv_omega
  have third : s.sp + 3 = s.sp + 1 + 2 := by bv_omega
  rw [second] at hlo
  rw [third] at hhi ⊢
  have pulled : pullWord { s with sp := s.sp + 1, p := { deserialize status with b := true } } =
      (word hi lo, { s with sp := s.sp + 1 + 2, p := { deserialize status with b := true } }) := pullWord_of_memoryByte hlo hhi
  simp only [returnFromException, pull_of_memoryByte hstatus, pulled]

/-- A state whose memory and SP an exception's entry on RAM left returns to the entry's PC, SP and flags, but for B. -/
theorem returnFromException_of_enterException {s t : State} {b4 : Bool} {vector : Addr} (hfirst : RamAt s.devices (stackAddr s.sp))
    (hsecond : RamAt s.devices (stackAddr (s.sp - 1))) (hthird : RamAt s.devices (stackAddr (s.sp - 2)))
    (hdevices : t.devices = (enterException b4 vector s).devices) (hsp : t.sp = (enterException b4 vector s).sp) :
    returnFromException t = { t with sp := s.sp, pc := s.pc, p := { s.p with b := true } } := by
  obtain ⟨-, hhi, hlo, hst⟩ := memoryByte_push_push_push s (hiByte s.pc) (loByte s.pc) (serialize s.p b4)
  have held (a : Addr) : memoryByte t.devices a = memoryByte (push (serialize s.p b4) (pushWord s.pc s)).devices a := by
    rw [hdevices]
    exact (readWord_storesNothing _ vector).1 a
  rw [enterException_sp] at hsp
  have third : t.sp + 1 = s.sp - 2 := by bv_omega
  have second : t.sp + 2 = s.sp - 1 := by bv_omega
  have first : t.sp + 3 = s.sp := by bv_omega
  have heldStatus : memoryByte t.devices (stackAddr (t.sp + 1)) = some (serialize s.p b4) := by
    rw [third, held]
    exact hst hthird
  have heldLow : memoryByte t.devices (stackAddr (t.sp + 2)) = some (loByte s.pc) := by
    rw [second, held]
    exact hlo hsecond
  have heldHigh : memoryByte t.devices (stackAddr (t.sp + 3)) = some (hiByte s.pc) := by
    rw [first, held]
    exact hhi hfirst
  rw [returnFromException_of_memoryByte heldStatus heldLow heldHigh, first, word_hiByte_loByte, deserialize_serialize]

/-- Settles O57: the entry's pushes are pulled again; what it does to the latch and the cycles is no part of the return. -/
theorem interruptReturns : Obligations.InterruptReturns := by
  intro s kind hfirst hsecond hthird
  have returned : returnFromException (serviceInterrupt kind s) =
      { serviceInterrupt kind s with sp := s.sp, pc := s.pc, p := { s.p with b := true } } :=
    returnFromException_of_enterException (b4 := false) (vector := vectorOf s.cfg kind) hfirst hsecond hthird
      (by simp [serviceInterrupt]) (by simp [serviceInterrupt])
  refine ⟨_, rfl, ?_⟩
  rw [returned]
  simp [Registers, serviceInterrupt]

/-! ## The flag instructions, NOP, WAI and STP -/

/-- Settles O58: each flag instruction replaces the flags, NOP by themselves; WAI and STP replace the run state. -/
theorem flagAndWaitInstructions : Obligations.FlagAndWaitInstructions := by
  intro s
  refine ⟨fun i p h => ?_, fun i r h => ?_⟩
  · have ht : exec i s = .next { s with p := p } := by
      rcases h with h | h | h | h | h | h | h | h <;> (obtain ⟨rfl, rfl⟩ := h; rfl)
    exact ⟨_, ht, ⟨rfl, rfl, rfl, rfl, rfl, rfl⟩, sameEngine_refl s, readsOnly_of (.refl s) ⟨rfl, rfl, rfl, rfl⟩⟩
  · have ht : exec i s = .next { s with runState := r } := by
      rcases h with ⟨rfl, rfl⟩ | ⟨rfl, rfl⟩ <;> rfl
    exact ⟨_, ht, rfl, registers_refl s, sameEngine_refl s, readsOnly_of (.refl s) ⟨rfl, rfl, rfl, rfl⟩⟩

end Sys2Proof.Machine
end

section
/-!
Interrupt entry, the clocks of the two waits, stop on BRK, the writes to the parallel port and the display, and the host's moves between
calls (60_exceptions.md R303, R310, R311, R316, R317, R323, R336, R337, R341).
-/

namespace Sys2Proof.Machine

open Sys2Proof.Claims

/-! ## Interrupt entry -/

/-- What an entry leaves in the CPU: SP three lower, I set, PC the vector's word, read after the three pushes. -/
theorem enterException_registers (b4 : Bool) (vector : Addr) (s : State) :
    Registers (enterException b4 vector s) s.a s.x s.y (s.sp - 3)
      (readWord (push (serialize s.p b4) (pushWord s.pc s)) vector).1 { s.p with i := true } := by
  have lowered : s.sp - 3 = s.sp - 1 - 1 - 1 := by bv_omega
  rw [lowered]
  exact ⟨by simp, by simp, by simp, by simp, rfl, by simp⟩

/-- BRK's base cycles, which a serviced interrupt is charged (R311). -/
theorem baseCycles_brk (v : Variant) : baseCycles v 0x00 = 7 := by
  cases v <;> rfl

section
variable (kind : InterruptKind) (s : State)

theorem serviceInterrupt_registers :
    Registers (serviceInterrupt kind s) s.a s.x s.y (s.sp - 3)
      (readWord (push (serialize s.p false) (pushWord s.pc s)) (vectorOf s.cfg kind)).1 { s.p with i := true } := by
  cases kind with
  | nmi => exact enterException_registers false s.cfg.nmiVec s
  | irq => exact enterException_registers false s.cfg.irqVec s

/-- A service reaches the devices, the host's side and the other latch by the entry's Bus accesses, and empties its own latch. -/
theorem serviceInterrupt_side :
    let t := serviceInterrupt kind s
    let w := readWord (push (serialize s.p false) (pushWord s.pc s)) (vectorOf s.cfg kind)
    t.devices = w.2.devices ∧ t.io = w.2.io ∧ t.nmiPending = (if kind = .nmi then none else w.2.nmiPending) ∧
      t.irqPending = (if kind = .irq then none else w.2.irqPending) := by
  cases kind <;> exact ⟨rfl, rfl, rfl, rfl⟩

theorem serviceInterrupt_engine :
    let t := serviceInterrupt kind s
    t.instrCycles = 7 ∧ t.totalCycles = s.totalCycles ∧ t.cfg = s.cfg ∧ t.runState = s.runState ∧ t.fault = s.fault ∧
      t.clockCalls = s.clockCalls := by
  refine ⟨baseCycles_brk s.cfg.variant, ?_⟩
  simp [serviceInterrupt]

/-- Every byte of memory reads as the three pushes leave it. -/
theorem serviceInterrupt_memoryByte (a : Addr) :
    memoryByte (serviceInterrupt kind s).devices a =
      memoryByte (push (serialize s.p false) (pushWord s.pc s)).devices a := by
  obtain ⟨hdevices, -⟩ := serviceInterrupt_side kind s
  rw [hdevices]
  exact (readWord_storesNothing _ _).1 a

end

theorem cpuClock_of_eligible {s : State} {kind : InterruptKind} (hrun : s.runState = .normal) (hcycles : s.instrCycles = 0)
    (hkind : eligible s = some kind) : cpuClock s = .next (endCycle (serviceInterrupt kind s)) := by
  rw [cpuClock_of_boundary hrun hcycles, fetchBoundary, hkind]

/-- Settles O14: the clock is the service and one cycle; the vector's reads leave what the pushes stored. -/
theorem interruptEntry : Obligations.InterruptEntry := by
  intro s kind hrun hcycles hkind
  have hregisters := serviceInterrupt_registers kind s
  obtain ⟨hdevices, hio, hnmi, hirq⟩ := serviceInterrupt_side kind s
  obtain ⟨hcharged, htotal, hcfg, hrun', hfault, hcalls⟩ := serviceInterrupt_engine kind s
  have held := serviceInterrupt_memoryByte kind s
  obtain ⟨hother, hhi, hlo, hstatus⟩ := memoryByte_push_push_push s (hiByte s.pc) (loByte s.pc) (serialize s.p false)
  have hbits := deserialize_serialize s.p false
  exact ⟨endCycle (serviceInterrupt kind s), push (serialize s.p false) (pushWord s.pc s), readWord _ (vectorOf s.cfg kind),
    cpuClock_of_eligible hrun hcycles hkind, rfl, rfl, hregisters, hnmi, hirq,
    congrArg (· - 1) hcharged, congrArg (· + 1) htotal, hcfg, hrun'.trans hrun, hfault, hcalls, hdevices, hio,
    fun a h0 h1 h2 => (held a).trans (hother a h0 h1 h2), fun h => (held _).trans (hhi h), fun h => (held _).trans (hlo h),
    fun h => ⟨_, (held _).trans (hstatus h), congrArg Status.b hbits, serialize_bit5 s.p false, congrArg Status.i hbits⟩⟩

/-! ## The Waiting and the Stopped clock -/

theorem not_requested_of_none {s : State} (h : s.nmiPending = none ∧ s.irqPending = none) : ¬ requested s = true := by
  rw [requested_iff]
  exact fun hr => hr.elim (absurd h.1) (absurd h.2)

theorem cpuClock_of_waiting {s : State} (hrun : s.runState = .waiting) : cpuClock s = .next (waitingClock s) := by
  rw [cpuClock, hrun]

theorem cpuClock_of_stopped {s : State} (hrun : s.runState = .stopped) : cpuClock s = .next (stoppedClock s) := by
  rw [cpuClock, hrun]

theorem waitingClock_of_requested {s : State} (h : requested s = true) :
    waitingClock s = { s with runState := .normal, instrCycles := 1 } := if_pos h

theorem waitingClock_of_not_requested {s : State} (h : ¬ requested s = true) : waitingClock s = s := if_neg h

/-- The Stopped wake in full: the vector's word in PC, and both latches consumed (R317). -/
theorem stoppedClock_of_requested {s : State} (h : requested s = true) :
    stoppedClock s =
      { (readWord s s.cfg.resetVec).2 with
        pc := (readWord s s.cfg.resetVec).1, runState := .normal, instrCycles := 1, nmiPending := none, irqPending := none } :=
  if_pos h

/-- Settles O17: the two cases of the Waiting clock. -/
theorem waitingClockWakes : Obligations.WaitingClock := by
  intro s hrun
  rw [cpuClock_of_waiting hrun]
  refine ⟨fun h => ?_, fun h => ?_⟩
  · rw [waitingClock_of_requested ((requested_iff s).2 h)]
  · rw [waitingClock_of_not_requested (not_requested_of_none h)]

/-- Settles O18: the two cases of the Stopped clock; a word's reads leave the registers, the counters and memory. -/
theorem stoppedClockWakes : Obligations.StoppedClock := by
  intro s hrun
  rw [cpuClock_of_stopped hrun]
  refine ⟨fun h => ?_, fun h => ?_⟩
  · rw [stoppedClock_of_requested ((requested_iff s).2 h)]
    exact ⟨_, rfl, ⟨rfl, rfl, rfl, rfl, rfl, rfl⟩, rfl, rfl, rfl, rfl, rfl,
      (readWord_storesNothing s s.cfg.resetVec).of_eq rfl rfl, rfl, rfl, rfl, rfl, rfl⟩
  · rw [stoppedClock_of_not_requested (not_requested_of_none h)]

/-! ## Stop on BRK -/

/-- Settles O20: $00 is no fault slot of either variant, so the stop is what is left to decide. -/
theorem stopOnBrkRaises : Obligations.StopOnBrkRaises := by
  intro s hstop
  have hslot : isFaultSlot s.cfg.variant 0x00 = false := by cases s.cfg.variant <;> rfl
  rw [dispatch, hslot, hstop]
  rfl

/-! ## Writes to the parallel port and the display -/

/-- A write to a display reaches the register at its offset (R53, R337). -/
theorem deviceSet_display {start a : Addr} {k : Nat} (d : Display) (v : Byte) (io : HostIO) (h : a.toNat = start.toNat + k) :
    deviceSet (.display start d) a v io = quiet (.display start (displaySet d k v io).1) (displaySet d k v io).2 := by
  rw [deviceSet, registerOffset_of_eq h]

/-- A word with its low byte replaced, in numbers. -/
theorem word_hiByte_eq (w : Addr) (v : Byte) : word (hiByte w) v = BitVec.ofNat 16 (256 * (w.toNat / 256) + v.toNat) := by
  rw [word_eq, hiByte_toNat]

/-- A word with its high byte replaced, in numbers. -/
theorem word_loByte_eq (w : Addr) (v : Byte) : word v (loByte w) = BitVec.ofNat 16 (256 * v.toNat + w.toNat % 256) := by
  rw [word_eq, loByte_toNat]

/-- A register of a device that fits the address space stands its offset after the start. -/
theorem addr_add_offset {start : Addr} {n k : Nat} (hfit : start.toNat + n ≤ 0xFFFF) (hk : k ≤ n) :
    (start + BitVec.ofNat 16 k).toNat = start.toNat + k := by
  bv_omega

/-- Settles O28: every register by its offset; the half latches are words with one byte replaced. -/
theorem displayAndParallelWrites : Obligations.DisplayAndParallelWrites := by
  intro start data v d io emitted
  refine ⟨fun hfit => ⟨?_, ?_⟩, fun hfit => ?_⟩
  · rw [deviceSet, if_pos (registerOffset_of_eq rfl)]
  · have offset : registerOffset start (start + 1) = 1 := registerOffset_of_eq (addr_add_offset hfit le_rfl)
    rw [deviceSet, offset, if_neg one_ne_zero]
    rfl
  · have register (k : Nat) (hk : k ≤ 10 := by decide) := deviceSet_display d v io (addr_add_offset hfit hk)
    rw [← word_hiByte_eq, ← word_loByte_eq, ← word_hiByte_eq, ← word_loByte_eq]
    exact ⟨deviceSet_display d v io (k := 0) rfl, register 1, register 2, register 3, register 4, register 5, register 6, register 7,
      register 8, register 9, _, _, rfl, rfl, register 10⟩

/-! ## The host between calls -/

/-- A request sets the latch of its kind, unless a fault is recorded (R303, R325). -/
theorem request_latches (kind : InterruptKind) (source : Handle) (s : State) :
    (request kind source s).nmiPending = (if kind = .nmi ∧ s.fault = none then some source else s.nmiPending) ∧
      (request kind source s).irqPending = (if kind = .irq ∧ s.fault = none then some source else s.irqPending) := by
  cases hf : s.fault with
  | some f => simp [request_of_fault kind source hf]
  | none =>
    obtain ⟨hnmi, hirq⟩ := request_of_no_fault source hf
    cases kind with
    | nmi => simp [hnmi]
    | irq => simp [hirq]

/-- Settles O30: over the moves; a Bus access is the CPU's own. -/
theorem hostMoves : Obligations.HostMoves := by
  intro s h hreset t
  refine ⟨?registers, ?engine, ?write, ?stores, ?read, ?quiet⟩
  case registers =>
    cases h with
    | reset => exact absurd rfl hreset
    | _ => exact ⟨rfl, rfl, rfl, rfl, rfl, rfl⟩
  case engine =>
    cases h with
    | reset => exact absurd rfl hreset
    | _ => exact sameEngine_refl s
  case write =>
    rintro a v rfl
    exact memWrite_storesAt s a v
  case stores =>
    intro hwrite
    cases h with
    | reset => exact absurd rfl hreset
    | busWrite a v => exact absurd rfl (hwrite a v)
    | busRead a => exact memRead_storesNothing s a
    | _ => exact (StoresNothing.refl s).of_eq rfl rfl
  case read =>
    rintro a rfl
    exact ⟨⟨rfl, rfl, rfl, rfl⟩, rfl⟩
  case quiet =>
    intro hread hwrite
    cases h with
    | reset => exact absurd rfl hreset
    | busRead a => exact absurd rfl (hread a)
    | busWrite a v => exact absurd rfl (hwrite a v)
    | request kind =>
      obtain ⟨hnmi, hirq⟩ := request_latches kind .host s
      exact ⟨rfl, rfl, by simpa [t, hostAction] using hnmi, by simpa [t, hostAction] using hirq⟩
    | _ => exact ⟨rfl, rfl, (if_neg fun hrequest => nomatch hrequest.1).symm, (if_neg fun hrequest => nomatch hrequest.1).symm⟩

end Sys2Proof.Machine
end
